-- ==== Sys2Proof/Word.lean ====
section
/-! DEFINITION. The words of the SK6: bytes, 32-bit registers, 512-bit descriptors and 128-bit instructions. -/

namespace Sys2Proof

/-- One byte (R9: a multi-byte field is little-endian). -/
abbrev Byte := BitVec 8

/-- A 32-bit register (R2). -/
abbrev Reg := BitVec 32

/-- A 64-byte descriptor or ring entry; bit 0 is the least significant bit of byte 0 (R9, R81). -/
abbrev Desc := BitVec 512

/-- A 128-bit instruction of the core (07, "Instruction formats"). -/
abbrev Insn := BitVec 128

end Sys2Proof
end

