-- ==== Sys2Proof/Syntax.lean ====
section
/-! DEFINITION. The commands of the SK6 block: one constructor of `Instr` per row of spec/opcode_table.json. -/

namespace Sys2Proof

/-- What a read of host memory returned (R87 to R89): bytes, an error completion (UR, CA, poison, ECRC, ATS), or no completion. -/
inductive DmaRead where
  | ok (bytes : List Byte)
  | error
  | timeout
  deriving DecidableEq, Repr

/-- What a read of a doorbell line returned (R76, R77): the four counts, a failure, or no completion (R89, polling mode). -/
inductive DoorbellRead where
  | counts (w0 w1 w2 w3 : Nat)
  | failed
  | timeout
  deriving DecidableEq, Repr

/-- The features of Table 4-1 that a host turns on by an enable bit of its own. VF Enable, the CXL.cache enable and the decoder's commit are requests of their own. -/
inductive HostFeature where
  | tag10Bit
  | tag14Bit
  | ats
  | pri
  | pasid
  | msix
  | msixFunctionMask
  | msi
  | intx
  | aer
  | ecrcGeneration
  | ecrcCheck
  | relaxedOrdering
  | idOrdering
  | tph
  | atomicOps
  | aspm
  | ltr
  | ptm
  | ide
  | doe
  | resizableBar
  | uio
  deriving DecidableEq, Repr

/-- What a configuration read asks for, by name: the manual cites the layout of configuration space and does not print it (R66, R70, R71, R88). -/
inductive ConfigField where
  | enable (f : HostFeature)
  | bar (i : Nat)
  | vfEnable
  | completionTimeout
  | timeoutRanges
  | timeoutDisable
  | cacheEnable
  | decoderCommit
  | memoryActive
  | memoryActiveTimeout
  deriving DecidableEq, Repr

/-- An admin descriptor whose buffer the SK6 writes (Table 4-9), and whether that write met an ATS translation fault (Table 4-12). -/
structure OutDesc where
  d : Desc
  fault : Bool
  deriving DecidableEq, Repr

/-- The configuration requests that reach state the spec gives the block (R63, R66, R70, R71, R88, Table 4-14, LIB.HOSTS). -/
inductive ConfigOp where
  | read (field : ConfigField)
  | bar (i address : Nat)
  | featureEnable (f : HostFeature) (on : Bool)
  | vfEnable (count : Nat)
  | completionTimeout (value : Nat)
  | cacheEnable (on : Bool)
  | decoderCommit (on : Bool)
  | vectorMask (vector : Nat) (masked : Bool)
  deriving DecidableEq, Repr

/-- What starts a link-triggered reset (Table 3-1). -/
inductive LinkCause where
  | perst
  | hotReset
  | linkDown
  deriving DecidableEq, Repr

/-- Which functions a per-VF reset resets (Table 3-1): one VF, or every VF when VF Enable is cleared. -/
inductive VfReset where
  | one (n : Nat)
  | every
  deriving DecidableEq, Repr

/-- The function whose reset completes (R57). -/
inductive FlrScope where
  | pf
  | vf (n : Nat)
  deriving DecidableEq, Repr

/-- What an ECC check of a memory word found (R326). -/
inductive EccResult where
  | clean
  | corrected
  | uncorrectable
  deriving DecidableEq, Repr

/-- What the governor reads at a boundary (R297, R302): sensors in whole degrees rounded up, meters in mJ, and the brake pin. -/
structure Meters where
  tj : Int
  thbm : Int
  baseMj : Nat
  planMj : Nat
  brakeLow : Bool
  deriving DecidableEq, Repr

/-- A unit as it arrives on a Trelhal port (R232): the 256-byte head flit, the payload of the data flits, the tail flit. A control message is a head flit alone. -/
structure RawUnit where
  head : List Byte
  payload : List Byte
  tail : List Byte
  deriving DecidableEq, Repr

/-- The PLDM sensors of Table 15-3. -/
inductive SensorKind where
  | junctionTemperature
  | hbmTemperature
  | modulePower
  | tickEnergy
  | thermalBand
  | brakeState
  deriving DecidableEq, Repr

/-- A component as PLDM names it (Table 16-6): its classification and its identifier. -/
structure FwComponent where
  classification : Nat
  identifier : Nat
  deriving DecidableEq, Repr

/-- The PLDM Base commands (DSP0240) that Table 17-9 calls supported. -/
inductive PldmBase where
  | setTid (tid : Nat)
  | getTid
  | getVersion (type : Nat)
  | getTypes
  | getCommands (type : Nat)
  deriving DecidableEq, Repr

/-- The MCTP Control commands of Table 17-9, and PLDM Base, which has no row of its own. -/
inductive MctpCommand where
  | setEndpointId (eid : Nat)
  | getEndpointId
  | getVersion
  | getMessageTypes
  | getUuid
  | pldm (c : PldmBase)
  deriving DecidableEq, Repr

/-- The commands. The docstring of a constructor names the rule of its row. -/
inductive Instr where
  /-- R52. `railLost` tells a loss of an AON rail from AON_RST_N low. -/
  | coldReset (railLost : Bool)
  /-- R37. The levels of the strap pins at the rising edge. -/
  | aonRstNRelease (bootSrc svcAddr : Nat) (testMode : Bool)
  /-- R30 -/
  | mainEn
  /-- R30 -/
  | mainPgTimeout
  /-- R36 -/
  | mainPg
  /-- R36, R51, R60. The measured deviation, whether any modulation was seen, and whether each SERDES reference clock is good. -/
  | clockCheck (deviationPpm : Int) (modulated : Bool) (serdesA serdesB : Bool)
  /-- R60, R68. Bit n of `failed` is set when stack n failed to train. -/
  | hbmTrained (failed : BitVec 8)
  /-- R50 -/
  | mainSupplyLoss
  /-- R50 -/
  | mainEnRequest
  /-- R58, R310 -/
  | stewardStart
  /-- R61 -/
  | portTrainingStart (port : Nat)
  /-- R61 -/
  | portTrained (port : Nat)
  /-- R61 -/
  | portTrainingTimeout (port : Nat)
  /-- R61 -/
  | hello (port : Nat)
  /-- R246 -/
  | helloAck (port : Nat) (u : RawUnit)
  /-- R62 -/
  | ready
  /-- R65 -/
  | bootTimeout
  /-- R66, R269. The populated NAND in GiB that the scan found. -/
  | windowOpen (nandGib : Nat)
  /-- R311, R312. Whether the known-answer tests passed. -/
  | bootHealthy (knownAnswers : Bool)
  /-- R313 -/
  | bootHealthTimeout
  /-- R41. Whether PCIE_REFCLK has been stable for 100 µs. -/
  | perstNRelease (refclkStable : Bool)
  /-- R52, R54 -/
  | linkTriggeredReset (cause : LinkCause)
  /-- R64 -/
  | hostLinkUp
  /-- R63 -/
  | configRequest (ld fn : Nat) (op : ConfigOp)
  /-- R54 -/
  | functionLevelReset
  /-- R54 -/
  | perVfReset (which : VfReset)
  /-- R57 -/
  | flrComplete (scope : FlrScope)
  /-- R72 -/
  | ldReset (ld : Nat)
  /-- R43 -/
  | temperatureWarning (tj thbm : Int)
  /-- R44 -/
  | thermtrip
  /-- R45, R302. `stillLow` is the level of the pin after the pulse of at least 1 µs. -/
  | pwrBrakeN (stillLow : Bool)
  /-- R3. `width` in bits, `write` the value written or none for a read; of a 64-bit aligned access it is the access of both words (R2). Here and below `fn` names the window: n for BAR0 of function n, 256 + d for BAR0 of LDd, 512 for the DBG block over JTAG (R47), 513 for what the rack manager reads over the service port (03), 1024 + n for BAR2/3 of function n and 2048 for BAR4/5 of the PF (Table 4-2). -/
  | narrowAccess (fn offset width : Nat) (write : Option Nat)
  /-- R2 -/
  | lowWordRead (fn offset : Nat)
  /-- R2 -/
  | highWordRead (fn offset : Nat)
  /-- R347 -/
  | registerWrite (fn offset : Nat) (value : Reg)
  /-- R75. The LOG2SIZE that the same write carries. -/
  | ringEnable (fn ring log2 : Nat)
  /-- R75 -/
  | ringDisable (fn ring log2 : Nat)
  /-- R186 -/
  | hold (on : Bool)
  /-- R187 -/
  | knotDbgSet (knot value : Nat)
  /-- R187 -/
  | knotDbgAdd (knot value : Nat)
  /-- R345 -/
  | dbgPoolDataRead
  /-- R47 -/
  | dvdbg
  /-- R77 -/
  | doorbellInvalidation (fn : Nat) (r : DoorbellRead)
  /-- R77 -/
  | doorbellPoll (fn : Nat) (r : DoorbellRead)
  /-- R119 -/
  | frame (fn : Nat) (d : Desc)
  /-- R113 -/
  | openStream (fn : Nat) (d : Desc)
  /-- R115 -/
  | bind (fn : Nat) (d : Desc)
  /-- R116 -/
  | pause (fn : Nat) (d : Desc)
  /-- R116 -/
  | resume (fn : Nat) (d : Desc)
  /-- R117 -/
  | close (fn : Nat) (d : Desc)
  /-- R78 -/
  | payloadFetchComplete (stream seq : Nat) (bytes : List Byte)
  /-- R120 -/
  | payloadFetchFail (stream seq : Nat)
  /-- R89 -/
  | completionTimeout (tag : Nat)
  /-- R89 -/
  | tagQuarantineEnd (tag : Nat)
  /-- R89 -/
  | unexpectedCompletion (tag : Nat)
  /-- R82 -/
  | nop (d : Desc)
  /-- R145 -/
  | planLoad (d : Desc) (buf : DmaRead)
  /-- R146 -/
  | planCommit (d : Desc)
  /-- R228 -/
  | planCancel (d : Desc)
  /-- R97 -/
  | keyLoad (d : Desc) (buf : DmaRead)
  /-- R98 -/
  | keyClear (d : Desc)
  /-- R351 -/
  | tenantSet (d : Desc) (buf : DmaRead)
  /-- R106 -/
  | tenantQuarantine (d : Desc)
  /-- R106 -/
  | tenantRelease (d : Desc)
  /-- R106 -/
  | tenantEvict (d : Desc)
  /-- R180 -/
  | knotSignal (d : Desc)
  /-- R188 -/
  | knotDump (d : OutDesc)
  /-- R281 -/
  | libPublish (d : Desc)
  /-- R283 -/
  | libRetire (d : Desc)
  /-- R284 -/
  | libPrefetchStage (d : Desc)
  /-- R286 -/
  | libPrefetchCancel (d : Desc)
  /-- R287 -/
  | libPrefetchUnstage (d : Desc)
  /-- R304 -/
  | powerPolicy (d : Desc) (buf : DmaRead)
  /-- R317. Whether the flash erased and programmed without failure. -/
  | fwBlock (d : Desc) (buf : DmaRead) (flashOk : Bool)
  /-- R319 -/
  | fwActivateNow (d : Desc)
  /-- R319 -/
  | fwActivateAtReset (d : Desc)
  /-- R319 -/
  | fwDiscard (d : Desc)
  /-- R338 -/
  | debugUnlock (d : Desc) (buf : DmaRead)
  /-- R338 -/
  | debugLock (d : Desc)
  /-- R69 -/
  | warmReset (d : Desc)
  /-- R55 -/
  | serviceWarmReset
  /-- R69 -/
  | warmResetEnter
  /-- R336 -/
  | logRead (d : OutDesc)
  /-- R248 -/
  | sliceSet (d : Desc) (buf : DmaRead)
  /-- R248 -/
  | peerProbeTimeout (chip port : Nat)
  /-- R24 -/
  | intakeCut
  /-- R108 -/
  | tickBoundary (m : Meters)
  /-- R128 -/
  | checkpoint (graft : Nat)
  /-- R226 -/
  | leadLoadsDone
  /-- R129 -/
  | nopInstruction (q : Nat) (w : Insn)
  /-- R131 -/
  | fence (q : Nat) (w : Insn)
  /-- R174 -/
  | signal (q : Nat) (w : Insn)
  /-- R175 -/
  | wait (q : Nat) (w : Insn)
  /-- R133 -/
  | release (q : Nat) (w : Insn)
  /-- R131 -/
  | waitTime (q : Nat) (w : Insn)
  /-- R131 -/
  | waitTimeExpire (q : Nat)
  /-- R130 -/
  | endQueue (q : Nat) (w : Insn)
  /-- R140 -/
  | loadBlock (w : Insn)
  /-- R139 -/
  | loadStage (w : Insn)
  /-- R139 -/
  | loadSpill (w : Insn)
  /-- R139 -/
  | loadCopy (w : Insn)
  /-- R229 -/
  | loadXpose (w : Insn)
  /-- R215 -/
  | sapinLand (w : Insn)
  /-- R214 -/
  | sapoutLaunch (w : Insn)
  /-- R216 -/
  | sapoutForward (w : Insn)
  /-- R214. The schedule entry whose OFFSET is reached. -/
  | sapSlot (sched : Nat)
  /-- R222. The land entry whose OFFSET passes. -/
  | sapLate (sched : Nat)
  /-- R208 -/
  | codecOpen (w : Insn)
  /-- R200 -/
  | codecSeal (w : Insn)
  /-- R155 -/
  | latticeMul (w : Insn)
  /-- R163 -/
  | plinthMma (w : Insn)
  /-- R166 -/
  | vectorOp (w : Insn)
  /-- R137 -/
  | hostioGather (w : Insn)
  /-- R144 -/
  | hostioPost (w : Insn)
  /-- R144 -/
  | hostioNotify (w : Insn)
  /-- R129 -/
  | engineWorkComplete (q : Nat)
  /-- R238 -/
  | chunk (port : Nat) (u : RawUnit)
  /-- R179 -/
  | knotSignalMessage (port : Nat) (u : RawUnit)
  /-- R239 -/
  | ack (port : Nat) (u : RawUnit)
  /-- R239 -/
  | nak (port : Nat) (u : RawUnit)
  /-- R239 -/
  | replayTimeout (port peer : Nat)
  /-- R241 -/
  | retryAfter (port : Nat) (u : RawUnit)
  /-- R241 -/
  | retryAfterExpiry (port peer : Nat)
  /-- R241 -/
  | unreachable (port : Nat) (u : RawUnit)
  /-- R236 -/
  | keepalive (port : Nat) (u : RawUnit)
  /-- R236 -/
  | keepaliveSend (port : Nat)
  /-- R236 -/
  | hopDown (port : Nat)
  /-- R240 -/
  | portOff (port : Nat)
  /-- R240 -/
  | drainTimeout (port : Nat)
  /-- R237 -/
  | peerUp (port : Nat) (u : RawUnit)
  /-- R249 -/
  | peerDown (port : Nat) (u : RawUnit)
  /-- R147 -/
  | commitCheck (port : Nat) (u : RawUnit)
  /-- R147 -/
  | commitAbort (port : Nat) (u : RawUnit)
  /-- R184 -/
  | ringStop (port : Nat) (u : RawUnit)
  /-- R248 -/
  | peerProbe (port : Nat) (u : RawUnit)
  /-- R248 -/
  | peerAck (port : Nat) (u : RawUnit)
  /-- R261 -/
  | announce (port : Nat) (u : RawUnit)
  /-- R259 -/
  | announceSend
  /-- R260 -/
  | announceTimeout
  /-- R263 -/
  | syncReqSend
  /-- R262 -/
  | syncReq (port : Nat) (u : RawUnit)
  /-- R263 -/
  | syncResp (port : Nat) (u : RawUnit)
  /-- R266 -/
  | holdover
  /-- R266 -/
  | holdoverExpiry
  /-- R276. Line n of the window is its bytes 64n to 64n + 63. -/
  | cxlMemRead (ld line : Nat)
  /-- R273 -/
  | cxlMemWrite (ld line : Nat) (data : List Byte)
  /-- R274 -/
  | ownershipRequest (ld line : Nat)
  /-- R270. What the flash read of the library page found. -/
  | cacheFill (page : Nat) (r : EccResult)
  /-- R275. The data that an owner returns. -/
  | bisnpResponse (ld line : Nat) (data : Option (List Byte))
  /-- R278 -/
  | biTimeout (ld line : Nat)
  /-- R272 -/
  | dirtyPageWriteback (page : Nat)
  /-- R285 -/
  | prefetchEnd (record : Nat)
  /-- R286 -/
  | cancelComplete (record : Nat)
  /-- R328. The 64-byte unit visited. -/
  | hbmPatrolScrub (unit : Nat) (r : EccResult)
  /-- R328. The 64-bit word visited. -/
  | poolPatrolScrub (word : Nat) (r : EccResult)
  /-- R316 -/
  | transferTimeout
  /-- R318 -/
  | queryDeviceIdentifiers
  /-- R318 -/
  | getFirmwareParameters
  /-- R318 -/
  | requestUpdate
  /-- R318 -/
  | passComponentTable (component : FwComponent)
  /-- R318 -/
  | updateComponent (component : FwComponent)
  /-- R318. The 1,024 bytes of the response, and whether the flash programmed without failure. -/
  | requestFirmwareData (bytes : List Byte) (flashOk : Bool)
  /-- R318 -/
  | activateFirmware (selfContained : Bool)
  /-- R318 -/
  | getStatus
  /-- R318 -/
  | cancelUpdateComponent
  /-- R318 -/
  | cancelUpdate
  /-- R305 -/
  | moduleCapSet (watts : Nat)
  /-- R305 -/
  | brakeEffecterSet (on : Bool)
  /-- R305 -/
  | sensorRead (kind : SensorKind)
  /-- R305 -/
  | pdrRead
  /-- R337 -/
  | mctpControl (c : MctpCommand)
  /-- R337 -/
  | vendorLogRead (source start len : Nat)
  /-- R337 -/
  | faultRecordRead
  /-- R331 -/
  | anchor
  /-- R272, R289, R290. Whether the page programmed, LIB.LIFE after it, and whether a spare block remains. -/
  | writeBackComplete (page : Nat) (programmed : Bool) (life : Nat) (spareLeft : Bool)
  /-- R81 -/
  | descriptorFetchComplete (fn ring : Nat) (r : DmaRead)
  /-- R37 -/
  | dynamicAddressAssignment (address : Nat)
  deriving DecidableEq, Repr

end Sys2Proof
end

