-- ==== Sys2Proof/Machine/Bytes.lean ====
section
/-! DEFINITION. Bit fields, byte order (R9), CRC-32C (10, Table 10-7) and byte memories in canonical form. -/

namespace Sys2Proof.Machine

/-- Bits [hi:lo] of a number, both inclusive (R1). -/
def bitsOf (x hi lo : Nat) : Nat := (x >>> lo) % 2 ^ (hi - lo + 1)

/-- Bit i of a number as a Bool. -/
def bitAt (x i : Nat) : Bool := x.testBit i

/-- A Bool as a one-bit number. -/
def b2n (b : Bool) : Nat := if b then 1 else 0

/-- Field [hi:lo] of a bit vector. -/
def fieldOf {n : Nat} (w : BitVec n) (hi lo : Nat) : Nat := bitsOf w.toNat hi lo

/-- The value of little-endian bytes (R9). -/
def leNat : List Byte → Nat
  | [] => 0
  | b :: t => b.toNat + 256 * leNat t

/-- The first n little-endian bytes of a number (R9). -/
def leBytes : Nat → Nat → List Byte
  | 0, _ => []
  | n + 1, x => BitVec.ofNat 8 x :: leBytes n (x / 256)

/-- The value of big-endian bytes (SEC 1; Table 5-3, Table 16-2). -/
def beNat (bs : List Byte) : Nat := leNat bs.reverse

/-- n big-endian bytes of a number. -/
def beBytes (n x : Nat) : List Byte := (leBytes n x).reverse

/-- Bytes off to off + len - 1 of a list; bytes beyond its end are zero. -/
def bytesAt (bs : List Byte) (off len : Nat) : List Byte :=
  let got := (bs.drop off).take len
  got ++ List.replicate (len - got.length) 0

/-- The little-endian field of len bytes at off. -/
def leAt (bs : List Byte) (off len : Nat) : Nat := leNat (bytesAt bs off len)

/-- Whether every byte from off on, len of them, is zero (reserved bytes, R10). -/
def zeroAt (bs : List Byte) (off len : Nat) : Bool := (bytesAt bs off len).all (· == 0)

/-- ceil (a / b). -/
def ceilDiv (a b : Nat) : Nat := (a + b - 1) / b

/-- Numbers lo, lo + 1, … , n of them. -/
def rangeFrom (lo n : Nat) : List Nat := (List.range n).map (lo + ·)

/-- A 32-bit counter saturates at 0xFFFF_FFFF (R333). -/
def satAdd (x d : Nat) : Nat := min (x + d) 0xFFFFFFFF

/-- An 8-bit lost count saturates at 255 (Table 9-3, Table 17-11). -/
def satAdd8 (x : Nat) : Nat := min (x + 1) 255

/-- A 64-bit byte or energy counter wraps modulo 2^64 (R333). -/
def wrapAdd64 (x d : Nat) : Nat := (x + d) % 2 ^ 64

/-! ### CRC-32C -/

/-- One bit of the reflected CRC-32C register (Table 10-7). -/
def crcBit (c : Nat) : Nat := if c % 2 = 1 then (c / 2) ^^^ 0x82F63B78 else c / 2

/-- One byte of CRC-32C. -/
def crcByte (c : Nat) (b : Byte) : Nat :=
  crcBit (crcBit (crcBit (crcBit (crcBit (crcBit (crcBit (crcBit (c ^^^ b.toNat))))))))

/-- CRC-32C: reflected, initial value and final XOR 0xFFFF_FFFF (Table 10-7). -/
def crc32c (bs : List Byte) : Nat := bs.foldl crcByte 0xFFFFFFFF ^^^ 0xFFFFFFFF

/-! ### Byte memories -/

/-- A byte memory: addresses strictly rising, no entry equal to what an unlisted address reads as. -/
abbrev Mem := List Host.Cell

/-- The canonical form of a memory whose unlisted bytes read as `z`. -/
def memWf (z : Byte) (m : Mem) : Bool :=
  decide (m.Pairwise (fun x y => x.1 < y.1)) && m.all (fun x => x.2 != z)

/-- The byte at an address. -/
def memRead (z : Byte) : Mem → Nat → Byte
  | [], _ => z
  | (k, v) :: t, a => if k = a then v else memRead z t a

/-- n bytes from address a of a memory whose entries below a have been dropped. -/
def memTake (z : Byte) : Nat → Nat → Mem → List Byte
  | 0, _, _ => []
  | n + 1, a, [] => z :: memTake z n (a + 1) []
  | n + 1, a, (k, v) :: t =>
    if k = a then v :: memTake z n (a + 1) t else z :: memTake z n (a + 1) ((k, v) :: t)

/-- n bytes from address a. -/
def memBytes (z : Byte) (m : Mem) (a n : Nat) : List Byte := memTake z n a (m.dropWhile (fun x => x.1 < a))

/-- The entries that bytes bs laid from address a need. -/
def memCells (z : Byte) : Nat → List Byte → Mem
  | _, [] => []
  | a, b :: t => if b = z then memCells z (a + 1) t else (a, b) :: memCells z (a + 1) t

/-- Bytes bs written from address a on; the canonical form is kept. -/
def memWrite (z : Byte) (m : Mem) (a : Nat) (bs : List Byte) : Mem :=
  m.filter (fun x => x.1 < a) ++ memCells z a bs ++ m.filter (fun x => a + bs.length ≤ x.1)

/-- n bytes from a set to what an unlisted byte reads as. -/
def memClear (m : Mem) (a n : Nat) : Mem := m.filter (fun x => x.1 < a || a + n ≤ x.1)

/-- The entries of n bytes from src, moved to dst. -/
def memSlice (m : Mem) (src n dst : Nat) : Mem :=
  (m.filter (fun x => decide (src ≤ x.1) && decide (x.1 < src + n))).map (fun x => (x.1 - src + dst, x.2))

/-- n bytes from dst on replaced by the entries given, which lie in that range. -/
def memPut (m : Mem) (dst n : Nat) (cells : Mem) : Mem :=
  m.filter (fun x => x.1 < dst) ++ cells ++ m.filter (fun x => dst + n ≤ x.1)

/-! ### Tables by number -/

/-- The value a table by number holds for k, or d. -/
def tabGet {α : Type} (d : α) : List (Nat × α) → Nat → α
  | [], _ => d
  | (k, v) :: t, i => if k = i then v else tabGet d t i

/-- The value a table by number holds for k, if any. -/
def tabFind {α : Type} : List (Nat × α) → Nat → Option α
  | [], _ => none
  | (k, v) :: t, i => if k = i then some v else tabFind t i

/-- A table with the value for i set; the keys stay in rising order. -/
def tabSet {α : Type} (i : Nat) (v : α) : List (Nat × α) → List (Nat × α)
  | [] => [(i, v)]
  | (k, w) :: t => if k = i then (i, v) :: t else if i < k then (i, v) :: (k, w) :: t else (k, w) :: tabSet i v t

/-- A table without the value for i. -/
def tabErase {α : Type} (i : Nat) (t : List (Nat × α)) : List (Nat × α) := t.filter (fun x => x.1 != i)

/-- Element i of a list replaced. -/
def setAt {α : Type} : List α → Nat → α → List α
  | [], _, _ => []
  | _ :: t, 0, v => v :: t
  | h :: t, i + 1, v => h :: setAt t i v

/-- Element i of a list, or d. -/
def getAt {α : Type} (d : α) : List α → Nat → α
  | [], _ => d
  | h :: _, 0 => h
  | _ :: t, i + 1 => getAt d t i

/-- A list of numbers in rising order with i inserted once. -/
def insertNat (i : Nat) : List Nat → List Nat
  | [] => [i]
  | k :: t => if k = i then k :: t else if i < k then i :: k :: t else k :: insertNat i t

end Sys2Proof.Machine
end

