-- ==== Sys2Proof/Machine/Crypto.lean ====
section
/-! DEFINITION. The cryptographic functions the manual names (Tables 5-4 and 10-7, R97, R201, R308): AES-256,
GCM, AES key wrap, SHA-384, ECDH and ECDSA on P-384. Their constants are those of the cited standards (log 9). -/

namespace Sys2Proof.Machine

/-! ### AES-256 (FIPS 197). A state is 16 numbers below 256, in byte order. -/

def aesXtime (x : Nat) : Nat := (2 * x) ^^^ (x / 128 * 0x11B)

/-- The product of x and y in GF(2^8) added to an accumulator, over the n low bits of y. -/
def aesMulGo : Nat → Nat → Nat → Nat → Nat
  | 0, _, _, acc => acc
  | n + 1, x, y, acc => bif y == 0 then acc else aesMulGo n (aesXtime x) (y / 2) (acc ^^^ (y % 2 * x))

/-- Product in GF(2^8). -/
def aesMul (x y : Nat) : Nat := aesMulGo 8 x y 0

/-- The S-box of FIPS 197 by rows of sixteen (PRESUMED: log 9). -/
def aesSboxRows : List (List Nat) :=
  [[99, 124, 119, 123, 242, 107, 111, 197, 48, 1, 103, 43, 254, 215, 171, 118],
   [202, 130, 201, 125, 250, 89, 71, 240, 173, 212, 162, 175, 156, 164, 114, 192],
   [183, 253, 147, 38, 54, 63, 247, 204, 52, 165, 229, 241, 113, 216, 49, 21],
   [4, 199, 35, 195, 24, 150, 5, 154, 7, 18, 128, 226, 235, 39, 178, 117]] ++
  [[9, 131, 44, 26, 27, 110, 90, 160, 82, 59, 214, 179, 41, 227, 47, 132],
   [83, 209, 0, 237, 32, 252, 177, 91, 106, 203, 190, 57, 74, 76, 88, 207],
   [208, 239, 170, 251, 67, 77, 51, 133, 69, 249, 2, 127, 80, 60, 159, 168],
   [81, 163, 64, 143, 146, 157, 56, 245, 188, 182, 218, 33, 16, 255, 243, 210]] ++
  [[205, 12, 19, 236, 95, 151, 68, 23, 196, 167, 126, 61, 100, 93, 25, 115],
   [96, 129, 79, 220, 34, 42, 144, 136, 70, 238, 184, 20, 222, 94, 11, 219],
   [224, 50, 58, 10, 73, 6, 36, 92, 194, 211, 172, 98, 145, 149, 228, 121],
   [231, 200, 55, 109, 141, 213, 78, 169, 108, 86, 244, 234, 101, 122, 174, 8]] ++
  [[186, 120, 37, 46, 28, 166, 180, 198, 232, 221, 116, 31, 75, 189, 139, 138],
   [112, 62, 181, 102, 72, 3, 246, 14, 97, 53, 87, 185, 134, 193, 29, 158],
   [225, 248, 152, 17, 105, 217, 142, 148, 155, 30, 135, 233, 206, 85, 40, 223],
   [140, 161, 137, 13, 191, 230, 66, 104, 65, 153, 45, 15, 176, 84, 187, 22]]

/-- The inverse S-box. -/
def aesInvSboxRows : List (List Nat) :=
  [[82, 9, 106, 213, 48, 54, 165, 56, 191, 64, 163, 158, 129, 243, 215, 251],
   [124, 227, 57, 130, 155, 47, 255, 135, 52, 142, 67, 68, 196, 222, 233, 203],
   [84, 123, 148, 50, 166, 194, 35, 61, 238, 76, 149, 11, 66, 250, 195, 78],
   [8, 46, 161, 102, 40, 217, 36, 178, 118, 91, 162, 73, 109, 139, 209, 37]] ++
  [[114, 248, 246, 100, 134, 104, 152, 22, 212, 164, 92, 204, 93, 101, 182, 146],
   [108, 112, 72, 80, 253, 237, 185, 218, 94, 21, 70, 87, 167, 141, 157, 132],
   [144, 216, 171, 0, 140, 188, 211, 10, 247, 228, 88, 5, 184, 179, 69, 6],
   [208, 44, 30, 143, 202, 63, 15, 2, 193, 175, 189, 3, 1, 19, 138, 107]] ++
  [[58, 145, 17, 65, 79, 103, 220, 234, 151, 242, 207, 206, 240, 180, 230, 115],
   [150, 172, 116, 34, 231, 173, 53, 133, 226, 249, 55, 232, 28, 117, 223, 110],
   [71, 241, 26, 113, 29, 41, 197, 137, 111, 183, 98, 14, 170, 24, 190, 27],
   [252, 86, 62, 75, 198, 210, 121, 32, 154, 219, 192, 254, 120, 205, 90, 244]] ++
  [[31, 221, 168, 51, 136, 7, 199, 49, 177, 18, 16, 89, 39, 128, 236, 95],
   [96, 81, 127, 169, 25, 181, 74, 13, 45, 229, 122, 159, 147, 201, 156, 239],
   [160, 224, 59, 77, 174, 42, 245, 176, 200, 235, 187, 60, 131, 83, 153, 97],
   [23, 43, 4, 126, 186, 119, 214, 38, 225, 105, 20, 99, 85, 33, 12, 125]]

def aesSub (x : Nat) : Nat := getAt 0 (getAt [] aesSboxRows (x / 16)) (x % 16)
def aesInvSub (x : Nat) : Nat := getAt 0 (getAt [] aesInvSboxRows (x / 16)) (x % 16)

def xorList (a b : List Nat) : List Nat := List.zipWith (· ^^^ ·) a b

/-- The key schedule: words in reverse order, the newest first. -/
def aesExpandStep (acc : List (List Nat) × Nat) (i : Nat) : List (List Nat) × Nat :=
  let prev := getAt [] acc.1 0
  let old := getAt [] acc.1 7
  if i % 8 = 0 then
    let r := (prev.drop 1 ++ prev.take 1).map aesSub
    let t := match r with
      | h :: tl => (h ^^^ acc.2) :: tl
      | [] => []
    (xorList old t :: acc.1, aesXtime acc.2)
  else if i % 8 = 4 then (xorList old (prev.map aesSub) :: acc.1, acc.2)
  else (xorList old prev :: acc.1, acc.2)

/-- The 15 round keys, each 16 bytes. -/
def aesRoundKeys (key : List Nat) : List (List Nat) :=
  let w0 := ((List.range 8).map (fun i => (key.drop (4 * i)).take 4)).reverse
  let ws := ((rangeFrom 8 52).foldl aesExpandStep (w0, 1)).1.reverse
  (List.range 15).map (fun r => ((ws.drop (4 * r)).take 4).flatten)

def aesShiftRows (s : List Nat) : List Nat :=
  (List.range 16).map (fun i => getAt 0 s ((i + 4 * (i % 4)) % 16))

def aesInvShiftRows (s : List Nat) : List Nat :=
  (List.range 16).map (fun i => getAt 0 s ((i + 12 * (i % 4)) % 16))

/-- One column times the circulant matrix whose first row is c0 to c3. -/
def aesMixCol (c0 c1 c2 c3 : Nat) : List Nat → List Nat
  | [x, y, z, w] =>
    [aesMul x c0 ^^^ aesMul y c1 ^^^ aesMul z c2 ^^^ aesMul w c3, aesMul x c3 ^^^ aesMul y c0 ^^^ aesMul z c1 ^^^ aesMul w c2,
     aesMul x c2 ^^^ aesMul y c3 ^^^ aesMul z c0 ^^^ aesMul w c1, aesMul x c1 ^^^ aesMul y c2 ^^^ aesMul z c3 ^^^ aesMul w c0]
  | _ => []

def aesMixWith (c0 c1 c2 c3 : Nat) (s : List Nat) : List Nat :=
  (List.range 4).flatMap (fun k => aesMixCol c0 c1 c2 c3 ((s.drop (4 * k)).take 4))

def aesMix : List Nat → List Nat := aesMixWith 2 3 1 1
def aesInvMix : List Nat → List Nat := aesMixWith 14 11 13 9

/-- AES-256 of one block. -/
def aesEncrypt (rks : List (List Nat)) (block : List Nat) : List Nat :=
  let s0 := xorList block (getAt [] rks 0)
  let s := (rangeFrom 1 13).foldl (fun s r => xorList (aesMix (aesShiftRows (s.map aesSub))) (getAt [] rks r)) s0
  xorList (aesShiftRows (s.map aesSub)) (getAt [] rks 14)

/-- The inverse cipher of one block. -/
def aesDecrypt (rks : List (List Nat)) (block : List Nat) : List Nat :=
  let s0 := xorList block (getAt [] rks 14)
  let s := (rangeFrom 1 13).foldl
    (fun s i => aesInvMix (xorList ((aesInvShiftRows s).map aesInvSub) (getAt [] rks (14 - i)))) s0
  xorList ((aesInvShiftRows s).map aesInvSub) (getAt [] rks 0)

def natBytes (bs : List Byte) : List Nat := bs.map (·.toNat)
def ofNatBytes (bs : List Nat) : List Byte := bs.map (BitVec.ofNat 8)

/-! ### GCM (SP 800-38D): 96-bit nonce, 128-bit tag -/

/-- Product in GF(2^128), blocks read big-endian, bit 0 leftmost. -/
def ghashMul (x y : Nat) : Nat :=
  ((List.range 128).foldl (fun (acc : Nat × Nat) i =>
    ((if x.testBit (127 - i) then acc.1 ^^^ acc.2 else acc.1),
      (if acc.2 % 2 = 1 then (acc.2 / 2) ^^^ (0xE1 * 2 ^ 120) else acc.2 / 2))) (0, y)).1

/-- The 16-byte blocks of a byte string, the last padded with zeros. -/
def blocks16 (bs : List Byte) : List (List Byte) :=
  (List.range (ceilDiv bs.length 16)).map (fun i => bytesAt bs (16 * i) 16)

def ghash (h : Nat) (bs : List (List Byte)) : Nat :=
  bs.foldl (fun acc b => ghashMul (acc ^^^ beNat b) h) 0

/-- CTR keystream XOR, the counter starting at 2. -/
def gcmCtr (rks : List (List Nat)) (nonce : List Byte) (data : List Byte) : List Byte :=
  ((List.range (ceilDiv data.length 16)).map (fun i =>
    let ks := aesEncrypt rks (natBytes (nonce ++ beBytes 4 (i + 2)))
    ofNatBytes (List.zipWith (· ^^^ ·) (natBytes ((data.drop (16 * i)).take 16)) ks))).flatten

/-- The GCM tag over additional data and ciphertext. -/
def gcmTag (rks : List (List Nat)) (nonce aad ct : List Byte) : List Byte :=
  let h := beNat (ofNatBytes (aesEncrypt rks (List.replicate 16 0)))
  let lens := beBytes 8 (8 * aad.length) ++ beBytes 8 (8 * ct.length)
  let g := ghash h (blocks16 aad ++ blocks16 ct ++ [lens])
  let e := beNat (ofNatBytes (aesEncrypt rks (natBytes (nonce ++ beBytes 4 1))))
  beBytes 16 (g ^^^ e)

/-- Sealing under AES-256-GCM (R201): ciphertext and tag. -/
def gcmSeal (key nonce aad pt : List Byte) : List Byte × List Byte :=
  let rks := aesRoundKeys (natBytes key)
  let ct := gcmCtr rks nonce pt
  (ct, gcmTag rks nonce aad ct)

/-- Opening: the plaintext, or none when the tag fails. -/
def gcmOpen (key nonce aad ct tag : List Byte) : Option (List Byte) :=
  let rks := aesRoundKeys (natBytes key)
  if gcmTag rks nonce aad ct = tag then some (gcmCtr rks nonce ct) else none

/-! ### AES key unwrap (SP 800-38F KW) of 40-byte plaintexts in 48 bytes -/

/-- Step t of the unwrap, t from 6n down to 1, over the integrity register and the n = 5 semiblocks. -/
def kwStep (rks : List (List Nat)) (acc : Nat × List (List Byte)) (t : Nat) : Nat × List (List Byte) :=
  let i := (t - 1) % 5
  let b := ofNatBytes (aesDecrypt rks (natBytes (beBytes 8 (acc.1 ^^^ t) ++ getAt [] acc.2 i)))
  (beNat (b.take 8), setAt acc.2 i (b.drop 8))

/-- The 40-byte plaintext, or none when the integrity check fails. -/
def kwUnwrap (key wrapped : List Byte) : Option (List Byte) :=
  let rks := aesRoundKeys (natBytes key)
  let a0 := beNat (wrapped.take 8)
  let r0 := (List.range 5).map (fun i => bytesAt wrapped (8 + 8 * i) 8)
  let r := ((List.range 30).map (fun i => 30 - i)).foldl (kwStep rks) (a0, r0)
  if r.1 = 0xA6A6A6A6A6A6A6A6 then some r.2.flatten else none

/-! ### SHA-384 (FIPS 180-4) -/

/-- The greatest r with r^k ≤ n and r < 2^bits, found bit by bit. -/
def rootOf (k n bits : Nat) : Nat :=
  (List.range bits).foldl (fun r i => let c := r + 2 ^ (bits - 1 - i); if c ^ k ≤ n then c else r) 0

def isPrimeB (n : Nat) : Bool := 2 ≤ n && (rangeFrom 2 19).all (fun d => d ≥ n || n % d != 0)

/-- The first 80 primes (2 to 409). -/
def primes80 : List Nat := ((List.range 410).filter isPrimeB)

/-- The 80 round constants: the first 64 bits of the fractions of the cube roots of the first 80 primes. -/
def shaK : List Nat := primes80.map (fun p => rootOf 3 (p * 2 ^ 192) 68 % 2 ^ 64)

/-- The initial value of SHA-384: fractions of the square roots of the ninth to sixteenth primes. -/
def sha384Init : List Nat := ((primes80.drop 8).take 8).map (fun p => rootOf 2 (p * 2 ^ 128) 68 % 2 ^ 64)

def rotr64 (x k : Nat) : Nat := x / 2 ^ k + (x % 2 ^ k) * 2 ^ (64 - k)

/-- The message schedule in reverse order, the newest word first. -/
def shaSchedStep (w : List Nat) (_ : Nat) : List Nat :=
  let w2 := getAt 0 w 1
  let w7 := getAt 0 w 6
  let w15 := getAt 0 w 14
  let w16 := getAt 0 w 15
  let s0 := rotr64 w15 1 ^^^ rotr64 w15 8 ^^^ (w15 / 2 ^ 7)
  let s1 := rotr64 w2 19 ^^^ rotr64 w2 61 ^^^ (w2 / 2 ^ 6)
  ((w16 + s0 + w7 + s1) % 2 ^ 64) :: w

def shaRound (v : List Nat) (kw : Nat × Nat) : List Nat :=
  match v with
  | [a, b, c, d, e, f, g, h] =>
    let t1 := h + (rotr64 e 14 ^^^ rotr64 e 18 ^^^ rotr64 e 41) + ((e &&& f) ^^^ ((2 ^ 64 - 1 - e) &&& g)) + kw.1 + kw.2
    let t2 := (rotr64 a 28 ^^^ rotr64 a 34 ^^^ rotr64 a 39) + ((a &&& b) ^^^ (a &&& c) ^^^ (b &&& c))
    [(t1 + t2) % 2 ^ 64, a, b, c, (d + t1) % 2 ^ 64, e, f, g]
  | _ => v

def shaBlock (hs : List Nat) (block : List Byte) : List Nat :=
  let w0 := ((List.range 16).map (fun i => beNat (bytesAt block (8 * i) 8))).reverse
  let w := ((List.range 64).foldl shaSchedStep w0).reverse
  let v := (List.zip shaK w).foldl shaRound hs
  List.zipWith (fun x y => (x + y) % 2 ^ 64) hs v

/-- SHA-384 of a byte string. -/
def sha384 (msg : List Byte) : List Byte :=
  let l := msg.length
  let padLen := (239 - l % 128) % 128
  let m := msg ++ [0x80] ++ List.replicate padLen 0 ++ beBytes 16 (8 * l)
  let hs := (List.range (m.length / 128)).foldl (fun hs i => shaBlock hs (bytesAt m (128 * i) 128)) sha384Init
  ((hs.take 6).map (beBytes 8)).flatten

/-! ### The curve P-384 (FIPS 186-5) -/

def ecP : Nat := 2 ^ 384 - 2 ^ 128 - 2 ^ 96 + 2 ^ 32 - 1
def ecB : Nat := 0xb3312fa7e23ee7e4988e056be3f82d19181d9c6efe8141120314088f5013875ac656398d8a2ed19d2a85c8edd3ec2aef
def ecN : Nat := 0xffffffffffffffffffffffffffffffffffffffffffffffffc7634d81f4372ddf581a0db248b0a77aecec196accc52973
def ecGx : Nat := 0xaa87ca22be8b05378eb1c71ef320ad746e1d3b628ba79b9859f741e082542a385502f25dbf55296c3a545e3872760ab7
def ecGy : Nat := 0x3617de4a96262c6f5d9e98bf9292dc29f8f41dbd289a147ce9da3113b5f0b8c00a60b1ce1d7e819d7a431d7c90ea0e5f

/-- x^e modulo m, by the 384 bits of e. -/
def powMod (m x e : Nat) : Nat :=
  (List.range 384).foldl (fun acc i =>
    let sq := acc * acc % m
    if e.testBit (383 - i) then sq * x % m else sq) (1 % m)

/-- The inverse modulo a prime m. -/
def invMod (m x : Nat) : Nat := powMod m x (m - 2)

def onCurve (x y : Nat) : Bool :=
  decide (x < ecP) && decide (y < ecP) && decide (y * y % ecP = (x * x * x + (ecP - 3) * x + ecB) % ecP)

/-- Points in Jacobian coordinates; Z = 0 is the point at infinity. -/
abbrev EcPoint := Nat × Nat × Nat

def ecDouble (q : EcPoint) : EcPoint :=
  let (x, y, z) := q
  let y2 := y * y % ecP
  let s := 4 * x * y2 % ecP
  let z2 := z * z % ecP
  let m := 3 * (x + z2) * (x + ecP - z2) % ecP
  let x3 := (m * m + 2 * (ecP - s)) % ecP
  let y3 := (m * (s + ecP - x3) + 8 * (ecP - y2 * y2 % ecP)) % ecP
  (x3, y3, 2 * y * z % ecP)

def ecAdd (p q : EcPoint) : EcPoint :=
  let (x1, y1, z1) := p
  let (x2, y2, z2) := q
  if z1 = 0 then q else if z2 = 0 then p else
  let z12 := z1 * z1 % ecP
  let z22 := z2 * z2 % ecP
  let u1 := x1 * z22 % ecP
  let u2 := x2 * z12 % ecP
  let s1 := y1 * z2 * z22 % ecP
  let s2 := y2 * z1 * z12 % ecP
  let h := (u2 + ecP - u1) % ecP
  let r := (s2 + ecP - s1) % ecP
  if h = 0 then (if r = 0 then ecDouble p else (1, 1, 0)) else
  let h2 := h * h % ecP
  let h3 := h * h2 % ecP
  let v := u1 * h2 % ecP
  let x3 := (r * r + (ecP - h3) + 2 * (ecP - v)) % ecP
  let y3 := (r * (v + ecP - x3) + (ecP - s1 * h3 % ecP)) % ecP
  (x3, y3, z1 * z2 * h % ecP)

/-- k times a point, by the 384 bits of k. -/
def ecMul (k : Nat) (p : EcPoint) : EcPoint :=
  (List.range 384).foldl (fun acc i =>
    let d := ecDouble acc
    if k.testBit (383 - i) then ecAdd d p else d) (1, 1, 0)

/-- The affine X coordinate of a point. -/
def ecX (q : EcPoint) : Nat :=
  let zi := invMod ecP q.2.2
  q.1 * (zi * zi % ecP) % ecP

/-- ECDSA verification over a SHA-384 digest (R308 step 4, R338). -/
def ecdsaVerify (pub sig digest : List Byte) : Bool :=
  let qx := beNat (bytesAt pub 0 48)
  let qy := beNat (bytesAt pub 48 48)
  let r := beNat (bytesAt sig 0 48)
  let s := beNat (bytesAt sig 48 48)
  if onCurve qx qy && decide (0 < r) && decide (r < ecN) && decide (0 < s) && decide (s < ecN) then
    let w := invMod ecN s
    let u1 := beNat digest * w % ecN
    let u2 := r * w % ecN
    let pt := ecAdd (ecMul u1 (ecGx, ecGy, 1)) (ecMul u2 (qx, qy, 1))
    decide (pt.2.2 ≠ 0) && decide (ecX pt % ecN = r)
  else false

/-- Z of ephemeral-static ECDH: the 48-byte X coordinate of the shared point (05, "KEY_LOAD and KEY_CLEAR"). -/
def ecdhZ (priv qx qy : Nat) : List Byte := beBytes 48 (ecX (ecMul priv (qx, qy, 1)))

/-- The first 32 bytes of the one-step KDF with SHA-384 (SP 800-56C). -/
def kdfOneStep (z fixedInfo : List Byte) : List Byte := (sha384 (beBytes 4 1 ++ z ++ fixedInfo)).take 32

end Sys2Proof.Machine
end

