-- ==== Sys2Proof/Config.lean ====
section
/-! DEFINITION. What an implementation fixes and the values the manual leaves free.

A free value is an `opaque` constant with no body: nothing constrains it. -/

namespace Sys2Proof

/-- A random draw, by the number of draws before it (`State.draws`): salts (R199), challenges (R338), HELLO waits (R61). Free value, log 7. -/
opaque Config.entropy : Nat → Nat

/-- Which of the values within the error bound of Table 8-2 a VECTOR function returns, by FUNC and operand bits (R166, R170: a fixed function of the operands). Free value, log 10. -/
opaque Config.vecChoice : Nat → Nat → Nat

/-- The pool word a DBG read returns where Table 7-11 gives no layout (tile maps, descriptor caches, knot state), by draw and word index. Free value, log 11. -/
opaque Config.planAreaWord : Nat → Nat → Nat

/-- What a CXL component register reads, by LD, offset, and whether the LD's decoder is committed: their layout is that of the cited standard. Free value, log 18. -/
opaque Config.componentReg : Nat → Nat → Bool → Nat

end Sys2Proof
end

