-- ==== Sys2Proof/Machine/State.lean ====
section
/-! DEFINITION. The state of the SK6 as plain data, block by block as 18 names them, and the state in cold reset.

The reset values are those of the register tables (R5, R342) and Table 3-5; where the manual gives none, the
value and its log entry stand in INVENTORY.md under "State". -/

namespace Sys2Proof.Machine

/-! ### Constants of the chip -/

/-- Fuses and mask ROM (05 Table 5-3, 16, 18 R343); kept by every reset. -/
structure Fuses where
  serial : Nat
  idPub : List Byte
  idPriv : Nat
  vendor : Reg
  uuid : Nat
  keyDigests : List (List Byte)
  revoked : BitVec 4
  svnBlown : Nat
  deriving DecidableEq, Repr

/-! ### Pins, supplies, boot -/

/-- Pins and supplies (02). A field that ends in N is the level of an active-low pin. -/
structure Pins where
  aonRstN : Bool
  aonRails : Bool
  mainEn : Bool
  mainPg : Bool
  perstN : Bool
  refclkOk : Bool
  serdesA : Bool
  serdesB : Bool
  thermtrip : Bool
  brakeLow : Bool
  tj : Int
  thbm : Int
  svcAddr : Option Nat
  deriving DecidableEq, Repr

/-- What PD_STEWARD runs (R58, R59). -/
inductive BootPhase where
  | held
  | rom
  | firmware
  | recovery
  deriving DecidableEq, Repr

/-- The main domains: without power, in reset, held in reset by a clock fault, running, isolated (R33, R36, R44, R50, R60). -/
inductive MainDomain where
  | off
  | reset
  | clockFault
  | on
  | isolated
  deriving DecidableEq, Repr

/-- Who asked for a warm reset (Table 3-1). -/
inductive WarmSource where
  | operator
  | rack
  | activate
  | fault
  deriving DecidableEq, Repr

/-- A warm reset asked for: whether its boundary has come (R69) and whether the recall and flush of R55 precede it. -/
structure WarmReq where
  source : WarmSource
  due : Bool
  flush : Bool
  deriving DecidableEq, Repr

/-- Boot state (03, 16). `timedOut`: the boot watchdog has fired since the last release (R65); `healthLate`: the boot was not healthy in time (R313); `cold`: no warm reset since AON_RST_N rose (R321). -/
structure Boot where
  strap : Reg
  phase : BootPhase
  dom : MainDomain
  clockOk : Bool
  supplyHold : Bool
  kind : Nat
  slot : Nat
  ready : Bool
  hbmOk : Bool
  hbmFailed : BitVec 8
  attA : Nat
  attB : Nat
  healthy : Bool
  cfgRead : Bool
  cfgWrote : Bool
  memActive : Bool
  releaseNs : Nat
  timedOut : Bool
  healthLate : Bool
  cold : Bool
  warm : Option WarmReq
  deriving DecidableEq, Repr

/-! ### Host port -/

/-- One ring of a function (Tables 4-3, 4-5). `seen` is the last count observed under this enable; `marks` pairs each count observed with the intake that was open then (R78); `stale`: the fetch in flight began under an earlier enable (R75). -/
structure Ring where
  baseLo : Reg
  baseHi : Reg
  log2 : Nat
  enable : Bool
  stopped : Bool
  devIdx : Nat
  seen : Option Nat
  fetching : Bool
  stale : Bool
  marks : List (Nat × Nat)
  deriving DecidableEq, Repr

/-- An event as posted (Table 4-11). `detail` is bits [319:128]. -/
structure Ev where
  code : Nat
  scope : Nat
  tenant : Nat
  stream : Nat
  detail : Nat
  cookie : Nat
  status : Nat
  deriving DecidableEq, Repr

/-- A vector's entry of the MSI-X table (PCIe 6.0): where its message goes and what it carries. The mask bit is `FnState.unmasked`. -/
structure MsixEntry where
  address : Nat
  data : Nat
  deriving DecidableEq, Repr

/-- What is counted for a function in one tick intake: its FRAME descriptors, those refused with RATE_LIMITED, the refusals of R105, and the MAX_FRAMES in force (R94, R95, R105). -/
structure Tally where
  frames : Nat
  rateLimited : Nat
  refused : Nat
  maxFrames : Nat
  deriving DecidableEq, Repr

/-- The state of one function: its register set and what HOSTIO keeps for it (04, 05), the enable bits that are set and the BARs of its configuration space (R70, R71). `fetched` are the validated ring 0 descriptors not yet carried out, each with the intake it belongs to; `adminFetched` that of ring 3. `tally` counts the open intake, and `late` the one that the last cut ended, while descriptors of it are still to be validated (R352). -/
structure FnState where
  dbLo : Reg
  dbHi : Reg
  pollUs : Nat
  poll : Bool
  coherent : Bool
  readFailed : Bool
  rings : List Ring
  lostResults : Nat
  lostEvents : Nat
  heldStops : List (Nat × Nat)
  fetched : List (Nat × Desc)
  adminFetched : List Desc
  enables : List HostFeature
  bars : List (Nat × Nat)
  msix : List (Nat × MsixEntry)
  unmasked : List Nat
  pendingVecs : List Nat
  resetting : Bool
  tally : Tally
  late : Option Tally
  deriving DecidableEq, Repr

/-- What an outstanding HOSTIO read is for (R89). -/
inductive ReadOwner where
  | ring (fn r : Nat)
  | payload (stream seq : Nat)
  deriving DecidableEq, Repr

/-- An armed 64-bit read latch (R2). -/
structure Latch where
  fn : Nat
  offset : Nat
  high : Reg
  deriving DecidableEq, Repr

/-- The host port (04). -/
structure HostPort where
  linkUp : Bool
  ldUp : BitVec 16
  decoders : BitVec 16
  dead : BitVec 16
  vfNum : Nat
  cto : Nat
  cacheEn : Bool
  fns : List (Nat × FnState)
  reads : List (Nat × ReadOwner)
  readWait : List ReadOwner
  quarantine : List (Nat × Bool)
  exhausted : Bool
  latches : List Latch
  closedLogged : BitVec 16
  deriving DecidableEq, Repr

/-! ### Tenants -/

/-- A tenant record (Table 5-2), its quarantine (R106), and the changes that wait for their time (R94). -/
structure TenantRec where
  enabled : Bool
  fixedSlot : Bool
  classes : BitVec 4
  streamQuota : Nat
  aQuota : Nat
  maxFrames : Nat
  quarantined : Bool
  disabling : Bool
  deriving DecidableEq, Repr

/-- A key slot that holds a key (05, R199). -/
structure KeySlot where
  key : List Byte
  keyId : Nat
  owner : Nat
  salt : Nat
  deriving DecidableEq, Repr

structure Tenants where
  recs : List (Nat × TenantRec)
  keys : List (Nat × KeySlot)
  deriving DecidableEq, Repr

/-! ### Streams -/

/-- STATE of a stream (Table 6-3). -/
inductive StreamState where
  | closed
  | opened
  | bound
  | paused
  | closing
  deriving DecidableEq, Repr

/-- A pending frame (R121 to R125). `intake` is the tick whose intake it joined, `ord` its place in the order of acceptance. -/
structure Pending where
  ord : Nat
  seq : Nat
  cookie : Nat
  addr : Nat
  len : Nat
  eou : Bool
  intake : Nat
  age : Nat
  payload : Option (List Byte)
  deriving DecidableEq, Repr

/-- A stream table entry (Table 6-3) with its validation state (R112) and pending frames. `ending` is why the next boundary closes it (Table 6-8: 1 disabled, 2 evicted, 3 reset). -/
structure Stream where
  st : StreamState
  cls : Nat
  eouSeen : Bool
  tenant : Nat
  nextSeq : Nat
  model : Nat
  openTick : Nat
  stateAddr : Nat
  stateLen : Nat
  frames : Nat
  bindTick : Nat
  vst : StreamState
  vmodel : Nat
  pending : List Pending
  ending : Option Nat
  deriving DecidableEq, Repr

/-- A control descriptor that waits for its boundary (R114). -/
structure CtlReq where
  ord : Nat
  fn : Nat
  opcode : Nat
  stream : Nat
  cookie : Nat
  model : Nat
  intake : Nat
  deriving DecidableEq, Repr

/-- A result (Table 4-10); `entries` are (DLEN, DATA) pairs, `window` is the tick in whose window it is written, `ord` the place of its descriptor in the order of acceptance. -/
structure Result where
  ord : Nat
  fn : Nat
  stream : Nat
  seq : Nat
  opcode : Nat
  cookie : Nat
  status : Nat
  tick : Nat
  deferred : Bool
  cls : Nat
  window : Nat
  entries : List (Nat × List Byte)
  deriving DecidableEq, Repr

/-- A frame computed in the current tick, at its place in the tile map (R136). `posted` holds the staged records (R144); `refilled`: the refill that an EOU frame calls for is done (R123). -/
structure WorkFrame where
  stream : Nat
  tenant : Nat
  cls : Nat
  modelIdx : Nat
  tile : Nat
  column : Nat
  frame : Pending
  posted : Option (List (Nat × List Byte))
  refilled : Bool
  deriving DecidableEq, Repr

/-- The stream table and what waits on it (06). Free IDs are those from `fresh` on, then `released` (R113). -/
structure Streams where
  nextOrd : Nat
  fresh : Nat
  released : List Nat
  table : List (Nat × Stream)
  ctl : List CtlReq
  due : List Result
  work : List WorkFrame
  deriving DecidableEq, Repr

/-! ### The tick -/

structure Ckpt where
  graft : Nat
  tick : Nat
  copy : Nat
  deriving DecidableEq, Repr

structure Tick where
  quarters : Nat
  index : Nat
  intake : Nat
  admitted : BitVec 4
  fixed : Bool
  ckpt : Nat
  ckptRuns : List Ckpt
  ckptLast : List (Nat × Nat)
  deriving DecidableEq, Repr

/-! ### Plans and the core -/

/-- Table 7-13. -/
structure ModelEntry where
  modelId : Nat
  ring : Nat
  resultEntries : Nat
  keySlot : Nat
  keyId : Nat
  nonceBase : List Byte
  home : Nat
  maxBound : Nat
  maxBoundA : Nat
  stateLen : Nat
  initAddr : Nat
  deriving DecidableEq, Repr

/-- A graft entry (07, "The plan image"). -/
structure GraftEntry where
  graftId : Nat
  period : Nat
  model : Nat
  home : Nat
  stateAddr : Nat
  stateLen : Nat
  copy0 : Nat
  copy1 : Nat
  deriving DecidableEq, Repr

/-- A ring entry (07, "The plan image"). -/
structure RingEntry where
  ringId : Nat
  position : Nat
  members : List Nat
  deriving DecidableEq, Repr

/-- Table 7-14. -/
structure SchedEntry where
  offset : Nat
  port : Nat
  kind : Nat
  peer : Nat
  block : Nat
  model : Nat
  len : Nat
  deriving DecidableEq, Repr

/-- A plan (Table 7-12) with its sections and the instruction stream of each queue. `knots` are (INIT, LIMIT). `fixedFor` are the tenants whose FIXED_SLOT was 1 when it was committed (R104). -/
structure Plan where
  setId : Nat
  quarters : Nat
  catchup : List Nat
  energy : List Nat
  energyFixed : Nat
  keys : Nat
  knots : List (Nat × Nat)
  models : List ModelEntry
  grafts : List GraftEntry
  rings : List RingEntry
  sched : List SchedEntry
  queues : List (List Insn)
  fixedFor : List Nat
  deriving DecidableEq, Repr

/-- A block that SAPIN lands (R215). -/
structure LandWork where
  sched : Nat
  dst : Nat
  pa : Option Nat
  early : Bool
  ek : Option Nat
  landed : Nat
  deriving DecidableEq, Repr

/-- A block that SAPOUT sends (R214, R216). -/
structure SendWork where
  sched : Nat
  slot : Nat
  started : Bool
  sent : Nat
  acked : Nat
  deriving DecidableEq, Repr

/-- The kind of work in flight. -/
inductive Work where
  | plain
  | land (w : LandWork)
  | send (w : SendWork)
  deriving DecidableEq, Repr

/-- An instruction in flight (R129): what takes effect at its completion. -/
structure Flight where
  index : Nat
  pushes : List (Nat × Nat)
  releases : List Nat
  knot : Option Nat
  finished : Bool
  work : Work
  deriving DecidableEq, Repr

/-- The state field of CORE.QSTAT (Table 7-16). -/
inductive QStatus where
  | idle
  | running
  | waitKnot
  | waitTime
  | fencing
  | ended
  | halted
  deriving DecidableEq, Repr

/-- An instruction queue: its next instruction, its state, the knot and value it waits for, the time it waits for, whether it had executed END when it halted (R184), and what is in flight. -/
structure Queue where
  head : Nat
  st : QStatus
  knot : Option (Nat × Nat)
  time : Nat
  ended : Bool
  flights : List Flight
  deriving DecidableEq, Repr

/-- A buffer slot: reference count and tag (R99, R133); `carry`: a carry load wrote it in this tick (R218, R225). -/
structure Slot where
  count : Nat
  tag : Option Nat
  carry : Bool
  deriving DecidableEq, Repr

/-- The lattice's table set: what the last T-mode instruction was built from (R143, R154). -/
structure Tables where
  addr : Nat
  model : Nat
  tile : Nat
  chunk : List Byte
  deriving DecidableEq, Repr

/-- A COMMIT_CHECK heard (R147). -/
structure CommitSeen where
  chip : Nat
  commitId : Nat
  n : Nat
  quarters : Nat
  deriving DecidableEq, Repr

structure Core where
  standby : Option Plan
  armed : Bool
  commitN : Nat
  heard : List CommitSeen
  active : Option Plan
  activeBuf : Bool
  halted : Bool
  haltedBefore : Bool
  stopReason : Nat
  lead : List Nat
  queues : List Queue
  hqs : List (List Nat)
  slots : List (Nat × Slot)
  tables : Option Tables
  seals : Nat
  deriving DecidableEq, Repr

/-- The byte stores of the data path: the pool (R344), HBM (Table 14-1), and their poisoned 64-byte units (R327). `poolBad` and `hbmBad` are the units whose stored bits have more errors than their code corrects (R326) and that no read has met yet; no command damages memory (log 74). -/
structure Memory where
  pool : Mem
  hbm : Mem
  poolPoison : List Nat
  hbmPoison : List Nat
  poolBad : List Nat
  hbmBad : List Nat
  deriving DecidableEq, Repr

/-! ### Knots -/

/-- A remote signal held for the tick that it names (R179). -/
structure HeldSignal where
  port : Nat
  src : Nat
  knot : Nat
  amount : Nat
  setId : Nat
  tick : Nat
  deriving DecidableEq, Repr

structure Knots where
  vals : List Nat
  hold : Bool
  holdReq : Option Bool
  held : Bool
  dump : Option (List Byte)
  dumpUnread : Bool
  dumpsLost : Nat
  heldSignals : List HeldSignal
  deriving DecidableEq, Repr

/-! ### Sap and links -/

/-- A chunk as accepted from a port (Tables 12-2, 12-3). -/
structure Chunk where
  port : Nat
  src : Nat
  tick : Nat
  setId : Nat
  modelId : Nat
  block : Nat
  index : Nat
  last : Bool
  data : List Byte
  deriving DecidableEq, Repr

/-- The sap (11). `landNext` and `sendNext` count, for each port, its land entries landed and its launch and forward entries sent in this tick (R214, R215). -/
structure Sap where
  carried : Nat
  voided : Nat
  bytesOut : Nat
  bytesIn : Nat
  late : Nat
  checkFail : Nat
  lastCheck : Nat
  landNext : List Nat
  sendNext : List Nat
  waiting : List Chunk
  discards : List Nat
  replays : List Nat
  deriving DecidableEq, Repr

/-- Table 12-6. -/
inductive PortState where
  | dark
  | training
  | discovery
  | active
  | drain
  | miscabled
  deriving DecidableEq, Repr

/-- A unit in the replay buffer (R239): its peer, LSN and tag, its message code (0 for a chunk), the transmissions made, and for a chunk its schedule entry. `again`: it is to be sent again as soon as credits allow (R236, R239). `refused` are the ports that could not deliver it (R241). -/
structure OutUnit where
  peer : Nat
  lsn : Nat
  tag : Nat
  msg : Nat
  u : RawUnit
  tries : Nat
  again : Bool
  retryWait : Bool
  refused : List Nat
  sched : Option Nat
  deriving DecidableEq, Repr

/-- A Trelhal port: its state and LINK.P_ registers (Table 12-8), credits (R236), LSNs (R237), replay buffer (R239). `nakSent` pairs a peer with the log time in ns of the last NAK to it (R238). -/
structure Port where
  st : PortState
  settled : Bool
  gated : Bool
  helloI : Nat
  helloWait : Nat
  attempt : Nat
  lastGrove : Nat
  lastSlot : Nat
  bytesTx : Nat
  bytesRx : Nat
  replays : Nat
  naks : Nat
  fecCorr : Nat
  fecUncorr : Nat
  discard : Nat
  retry : Nat
  downs : Nat
  txCredit : Nat
  owed : Nat
  lsnTx : List (Nat × Nat)
  lsnRx : List (Nat × Nat)
  nakSent : List (Nat × Nat)
  units : List OutUnit
  idleTicks : Nat
  carried : Bool
  discardLogged : Bool
  discoveryLogged : Bool
  noPlanLogged : Bool
  deriving DecidableEq, Repr

/-- A SLICE_SET probe (R248): the chip, the port, the tries made, and the answer (SERVICEABLE). -/
structure Probe where
  chip : Nat
  port : Nat
  tries : Nat
  answer : Option Bool
  unreachable : Bool
  deriving DecidableEq, Repr

structure Link where
  chipId : Nat
  valid : Bool
  ports : List Port
  up : List (Nat × BitVec 8)
  probes : List Probe
  deriving DecidableEq, Repr

/-! ### Grove time -/

/-- Table 13-1. -/
inductive TimeState where
  | unsync
  | sync
  | holdover
  | root
  deriving DecidableEq, Repr

/-- Grove time (13). `taker`: the chip of this grove that took the grove-root role when the time root was lost (R258). `fraction` is what `now` lacks of a whole ns, in 10^-6 ns, and `trim` the rate trim in ppm (R257, R263). `announces` holds the TIME of each chip's last ANNOUNCE, so that copies on several planes count as one (R259). `barred` are the ports on which the parent was UNREACHABLE (R263). `delays` are those of the last 16 samples, in 1/32 ns (R263). `request` is the XID of the outstanding SYNC_REQ. -/
structure Time where
  now : Nat
  fraction : Nat
  st : TimeState
  groveRoot : Bool
  hasRoot : Bool
  rootId : Nat
  parent : Option (Nat × Nat)
  taker : Option Nat
  announces : List (Nat × Nat)
  barred : List Nat
  offset : Int
  steps : Nat
  holdovers : Nat
  trim : Int
  delays : List Int
  xid : Nat
  request : Option Nat
  logNs : Nat
  deriving DecidableEq, Repr

/-! ### The library -/

/-- A cache page (R271, R272): being read from flash (`filling`, with the lines in `fresh` that hosts have returned meanwhile), changed since it was last written (`dirty`), being written (`writing`, with the bytes and poisoned lines sent to flash), or being evicted. -/
structure CachePage where
  page : Nat
  dirty : Bool
  writing : Bool
  filling : Bool
  fresh : List Nat
  evicting : Bool
  snap : List Byte
  snapPoison : List Nat
  deriving DecidableEq, Repr

/-- A directory entry (R274). -/
structure DirEntry where
  line : Nat
  holders : BitVec 16
  owned : Bool
  stamp : Nat
  deriving DecidableEq, Repr

/-- A snoop outstanding to a host (R275): BISnpData when `data`, else BISnpInv. -/
structure Snoop where
  ld : Nat
  line : Nat
  data : Bool
  deriving DecidableEq, Repr

inductive LibKind where
  | read
  | write (data : List Byte)
  | own
  deriving DecidableEq, Repr

/-- A host request that waits (R273, R275, R281). -/
structure LibReq where
  ld : Nat
  line : Nat
  kind : LibKind
  deriving DecidableEq, Repr

/-- A catalogue entry (R281). -/
structure CatalogEntry where
  first : Nat
  pages : Nat
  imageId : Nat
  modelId : Nat
  keyId : Nat
  nonceBase : List Byte
  deriving DecidableEq, Repr

/-- A prefetch record (R284 to R287); `owner` is the tenant of the initial state that it wrote. -/
structure PrefetchRec where
  id : Nat
  first : Nat
  pages : Nat
  sh0 : Bool
  sh1 : Bool
  shp : Bool
  pos : Nat
  follow : Option Nat
  dest : Nat
  destLen : Nat
  init : Nat
  initLen : Nat
  keySlot : Nat
  running : Bool
  cancelling : Bool
  cancelAsked : Bool
  owner : Option Nat
  deriving DecidableEq, Repr

/-- The library (14). `flashLife` and `flashSpent` are the wear that the flash itself carries; LIB.LIFE and LIB.STATE[2] take them when the scan ends (log 81). -/
structure Lib where
  isOpen : Bool
  scanning : Bool
  readOnly : Bool
  capacity : Nat
  cacheGib : Nat
  cacheGibInUse : Nat
  share : Nat
  shareNext : Option Nat
  biTimeout : Nat
  stageLimit : Nat
  life : Nat
  flashLife : Nat
  flashSpent : Bool
  badBlocks : Nat
  hostDeaths : Nat
  writesRefused : Nat
  flashRd : Nat
  flashWr : Nat
  flash : Mem
  badPages : List Nat
  flashPoison : List Nat
  cache : Mem
  cachePoison : List Nat
  pages : List CachePage
  dir : List DirEntry
  dirStamp : Nat
  snoops : List Snoop
  waiting : List LibReq
  lock : Option (Nat × Nat)
  refused : List (Nat × Nat × Nat × Nat)
  catalog : List CatalogEntry
  recs : List PrefetchRec
  deriving DecidableEq, Repr

/-! ### Power -/

/-- The fields of POWER_POLICY (Table 15-2). -/
structure Policy where
  baseW : Nat
  linkMin : Nat
  linkIdle : Nat
  deriving DecidableEq, Repr

structure Power where
  cap : Nat
  capNext : Option Nat
  policy : Policy
  policyNext : Option Policy
  domains : BitVec 19
  budget : Nat
  eBase : Nat
  eLast : Nat
  tj : Int
  thbm : Int
  band : Nat
  brake : Bool
  deferrals : Nat
  energy : Nat
  baseHist : List Nat
  excessHist : List Nat
  declared : Nat
  effecter : Bool
  brakeLatch : Bool
  deriving DecidableEq, Repr

/-! ### Firmware -/

/-- STW.FW_STATE (Table 16-9). -/
inductive FwState where
  | idle
  | receiving
  | staged
  | pending
  | trial
  deriving DecidableEq, Repr

/-- The update mode of the PLDM Firmware Device (R318). -/
inductive PldmState where
  | idle
  | learning
  | ready
  | download
  | complete
  deriving DecidableEq, Repr

/-- The update engine (16), the boot flash, held firmware events (R323), the MCTP endpoint ID and the PLDM terminus ID (R337). `header` are the bytes of the header received so far, `target` the slot that the transfer writes. -/
structure Steward where
  fw : FwState
  pathService : Bool
  nextOffset : Nat
  lastCheck : Nat
  header : List Byte
  target : Nat
  prev : FwState
  pldm : PldmState
  spi : Mem
  recCount : Nat
  held : List (Nat × Ev)
  eid : Nat
  tid : Nat
  deriving DecidableEq, Repr

/-! ### Faults and logs -/

/-- A log record (Table 17-5); its CRC is computed when it is read. `returned`: a read has returned it (R332). -/
structure LogRec where
  seq : Nat
  time : Nat
  scope : Nat
  code : Nat
  tenant : Nat
  posted : Bool
  fault : Bool
  stream : Nat
  detail : Nat
  tick : Nat
  returned : Bool
  deriving DecidableEq, Repr

structure Err where
  log : List LogRec
  nextSeq : Nat
  logRead : Nat
  logLost : Nat
  lossSince : Nat
  second : Nat
  inSecond : Nat
  anchorNs : Nat
  store : List LogRec
  storeHeader : List Byte
  unread : List LogRec
  summary : Option (List Byte)
  pmUnread : Bool
  pmLost : Nat
  hbmCe : Nat
  hbmUe : Nat
  poolCe : Nat
  poolUe : Nat
  flashCe : Nat
  flashUe : Nat
  poison : Nat
  challenge : Nat
  unlocked : Bool
  held : List (Nat × Ev)
  deriving DecidableEq, Repr

/-- The instructions of the debug port (Table 2-6). -/
inductive JtagInsn where
  | bypass
  | idcode
  | samplePreload
  | extest
  | highz
  | clamp
  | dvdbg
  deriving DecidableEq, Repr

/-- The DBG block and the debug port (18, 02): the instruction register and the boundary-scan register of 414 cells, one for each signal ball that R47 names (log 87). -/
structure Dbg where
  poolAddr : Nat
  dvdbg : Bool
  ir : JtagInsn
  scan : BitVec 414
  deriving DecidableEq, Repr

/-! ### Admin work in progress (R82) -/

/-- What takes effect at the ADMIN_DONE of a descriptor: a tenant record (R94) or a key slot's contents (R97). -/
inductive AdminEffect where
  | tenant (t : Nat) (r : TenantRec)
  | key (slot : Nat) (k : KeySlot)
  deriving DecidableEq, Repr

/-- What the running admin descriptor waits for. -/
inductive AdminWork where
  | finish (status detail : Nat) (effect : Option AdminEffect)
  | commit (n : Nat)
  | contain (tenant action : Nat)
  | signalAt (knot amount n : Nat)
  /-- The lines still to be recalled (R281 step 2), and whether validation has passed (step 3). -/
  | publish (first pages : Nat) (recalling : List Nat) (checked : Bool)
  | cancel (record : Nat)
  | policy
  | slice
  | warm
  deriving DecidableEq, Repr

structure AdminOp where
  d : Desc
  work : AdminWork
  deriving DecidableEq, Repr

/-! ### What the chip sends out -/

/-- How a configuration or BAR request completes (R63, Table 4-15). -/
inductive Completion where
  | success
  | crs
  | unsupported
  | none
  deriving DecidableEq, Repr

inductive Out where
  /-- A 64-byte entry written to ring r of function fn at entry number i, which lies at `addr` (R76); Relaxed Ordering is clear (R87). -/
  | entry (fn r i addr : Nat) (e : Desc)
  /-- A read of host memory: its tag, its address and length, whether Relaxed Ordering is set, and the completion timeout in ns (R87, R88). -/
  | dmaRead (tag addr len : Nat) (relaxed : Bool) (timeoutNs : Nat)
  /-- Bytes written to an admin buffer. -/
  | buffer (addr : Nat) (bytes : List Byte)
  /-- An MSI-X message of a vector, with the address and data of its table entry (R86). -/
  | msix (fn vector address data : Nat)
  | drs
  | frs (scope : FlrScope)
  /-- A completion timeout, or an unexpected completion when `late`, reported in AER. -/
  | aer (tag : Nat) (late : Bool)
  /-- A configuration request completed, with the value of a read. -/
  | config (ld fn : Nat) (c : Completion) (value : Nat)
  | mmio (fn offset : Nat) (c : Completion) (value : Nat)
  /-- A unit sent on a port; the SEQ, REPLAY and CREDIT fields are in its bytes. -/
  | unit (port : Nat) (u : RawUnit)
  | link (up : Bool)
  | cxlData (ld line : Nat) (data : List Byte) (poison shared : Bool)
  | cxlDone (ld line : Nat)
  | cxlDropped (ld line : Nat)
  | snoop (ld line : Nat) (data : Bool)
  | flashProgram (page : Nat)
  | jtag (dbg : Bool)
  | i3c (address : Nat)
  /-- A message on the service port, with a code and data. What: 0 PlatformEventMessage, 1 a report of the steward, 2 a PLDM firmware answer, 3 TransferComplete, 4 VerifyComplete, 5 ApplyComplete, 6 a platform monitoring answer, 7 an MCTP Control answer, 8 a vendor-defined answer, 9 RequestFirmwareData, 10 a PLDM Base answer. -/
  | service (what code : Nat) (data : List Byte)
  deriving DecidableEq, Repr

/-! ### The whole machine -/

structure State where
  fuse : Fuses
  pin : Pins
  boot : Boot
  host : HostPort
  ten : Tenants
  str : Streams
  tick : Tick
  core : Core
  mem : Memory
  knot : Knots
  sap : Sap
  link : Link
  time : Time
  lib : Lib
  pwr : Power
  stw : Steward
  err : Err
  dbg : Dbg
  admin : Option AdminOp
  out : List Out
  draws : Nat
  pending : List Instr
  deriving DecidableEq, Repr

/-- Why the machine stops with a fault. -/
inductive Fault where
  /-- An access to an HBM address at or beyond 192 GiB, which does not exist (Table 14-1). Raised by LOAD.BLOCK, LOAD.COPY, LOAD.STAGE, LOAD.SPILL and LEAD_LOADS_DONE. Safe: the machine stops. -/
  | hbmRange (address : Nat)
  deriving DecidableEq, Repr

/-- Why a command has no meaning here. -/
inductive Refusal where
  /-- A command whose meaning is not written yet, by its mnemonic. Raised by the dispatch alone. Safe: the machine stops. -/
  | notModelled (mnemonic : String)
  deriving DecidableEq, Repr

/-! ### Cold reset -/

/-- A ring after reset (Table 4-3, Table 4-5). -/
def Ring.reset : Ring :=
  { baseLo := 0, baseHi := 0, log2 := 0, enable := false, stopped := false, devIdx := 0, seen := none, fetching := false
    stale := false, marks := [] }

def Tally.reset : Tally := { frames := 0, rateLimited := 0, refused := 0, maxFrames := 0 }

/-- A function after reset (Tables 4-3, 4-4, R346). -/
def FnState.reset : FnState :=
  { dbLo := 0, dbHi := 0, pollUs := 20, poll := true, coherent := false, readFailed := false
    rings := List.replicate 4 Ring.reset, lostResults := 0, lostEvents := 0, heldStops := [], fetched := [], adminFetched := []
    enables := [], bars := [], msix := [], unmasked := [], pendingVecs := [], resetting := false, tally := Tally.reset, late := none }

/-- A tenant record after reset: disabled, all fields zero (05, "Tenant records"). -/
def TenantRec.reset : TenantRec :=
  { enabled := false, fixedSlot := false, classes := 0, streamQuota := 0, aQuota := 0, maxFrames := 0
    quarantined := false, disabling := false }

/-- A stream table entry after reset: CLOSED, every other field zero (Table 3-5). -/
def Stream.reset : Stream :=
  { st := .closed, cls := 0, eouSeen := false, tenant := 0, nextSeq := 0, model := 0, openTick := 0, stateAddr := 0
    stateLen := 0, frames := 0, bindTick := 0, vst := .closed, vmodel := 0, pending := [], ending := none }

/-- A queue after reset: empty and idle (Table 3-5). -/
def Queue.reset : Queue := { head := 0, st := .idle, knot := none, time := 0, ended := false, flights := [] }

/-- A slot after reset: free and untagged (R60). -/
def Slot.reset : Slot := { count := 0, tag := none, carry := false }

/-- A port after reset: DARK, counters zero (Table 12-8). -/
def Port.reset : Port :=
  { st := .dark, settled := false, gated := false, helloI := 0, helloWait := 0, attempt := 0, lastGrove := 0
    lastSlot := 0, bytesTx := 0, bytesRx := 0, replays := 0, naks := 0, fecCorr := 0, fecUncorr := 0, discard := 0
    retry := 0, downs := 0, txCredit := 0, owed := 0, lsnTx := [], lsnRx := [], nakSent := [], units := []
    idleTicks := 0, carried := false, discardLogged := false, discoveryLogged := false, noPlanLogged := false }

def Fuses.reset : Fuses :=
  { serial := 0, idPub := List.replicate 96 0, idPriv := 0, vendor := 0, uuid := 0
    keyDigests := List.replicate 4 (List.replicate 48 0), revoked := 0, svnBlown := 0 }

def Pins.reset : Pins :=
  { aonRstN := false, aonRails := true, mainEn := false, mainPg := false, perstN := false, refclkOk := false
    serdesA := false, serdesB := false, thermtrip := false, brakeLow := false, tj := 0, thbm := 0, svcAddr := none }

def Boot.reset : Boot :=
  { strap := 0, phase := .held, dom := .off, clockOk := false, supplyHold := false, kind := 0, slot := 0
    ready := false, hbmOk := false, hbmFailed := 0, attA := 0, attB := 0, healthy := false, cfgRead := false
    cfgWrote := false, memActive := false, releaseNs := 0, timedOut := false
    healthLate := false, cold := true, warm := none }

def HostPort.reset : HostPort :=
  { linkUp := false, ldUp := 0, decoders := 0, dead := 0, vfNum := 0, cto := 0, cacheEn := false, fns := []
    reads := [], readWait := [], quarantine := [], exhausted := false, latches := [], closedLogged := 0 }

def Tenants.reset : Tenants := { recs := [], keys := [] }

def Streams.reset : Streams := { nextOrd := 0, fresh := 0, released := [], table := [], ctl := [], due := [], work := [] }

def Tick.reset : Tick :=
  { quarters := 40, index := 0, intake := 0, admitted := 0, fixed := false, ckpt := 0, ckptRuns := [], ckptLast := [] }

def Core.reset : Core :=
  { standby := none, armed := false, commitN := 0, heard := [], active := none, activeBuf := false
    halted := false, haltedBefore := false, stopReason := 1, lead := [], queues := List.replicate 8 Queue.reset
    hqs := List.replicate 16 [], slots := [], tables := none, seals := 0 }

def Memory.reset : Memory := { pool := [], hbm := [], poolPoison := [], hbmPoison := [], poolBad := [], hbmBad := [] }

def Knots.reset : Knots :=
  { vals := List.replicate 48 0, hold := false, holdReq := none, held := false, dump := none, dumpUnread := false
    dumpsLost := 0, heldSignals := [] }

def Sap.reset : Sap :=
  { carried := 0, voided := 0, bytesOut := 0, bytesIn := 0, late := 0, checkFail := 0, lastCheck := 0
    landNext := List.replicate 8 0, sendNext := List.replicate 8 0, waiting := [], discards := List.replicate 8 0, replays := List.replicate 8 0 }

def Link.reset : Link :=
  { chipId := 0, valid := false, ports := List.replicate 8 Port.reset, up := [], probes := [] }

def Time.reset : Time :=
  { now := 0, fraction := 0, st := .unsync, groveRoot := false, hasRoot := false, rootId := 0, parent := none, taker := none
    announces := [], barred := [], offset := 0, steps := 0, holdovers := 0, trim := 0, delays := [], xid := 0, request := none, logNs := 0 }

def Lib.reset : Lib :=
  { isOpen := false, scanning := false, readOnly := false, capacity := 0, cacheGib := 32, cacheGibInUse := 32
    share := 4, shareNext := none, biTimeout := 1000, stageLimit := 96, life := 100, flashLife := 100, flashSpent := false
    badBlocks := 0, hostDeaths := 0
    writesRefused := 0, flashRd := 0, flashWr := 0, flash := [], badPages := [], flashPoison := [], cache := []
    cachePoison := [], pages := [], dir := [], dirStamp := 0, snoops := [], waiting := [], lock := none, refused := []
    catalog := [], recs := [] }

def Policy.reset : Policy := { baseW := 150, linkMin := 8, linkIdle := 100 }

def Power.reset : Power :=
  { cap := 700, capNext := none, policy := Policy.reset, policyNext := none, domains := 0x7FF00, budget := 0
    eBase := 0, eLast := 0, tj := 0, thbm := 0, band := 0, brake := false, deferrals := 0, energy := 0, baseHist := []
    excessHist := [], declared := 0, effecter := false, brakeLatch := false }

def Steward.reset : Steward :=
  { fw := .idle, pathService := false, nextOffset := 0, lastCheck := 0, header := [], target := 0, prev := .idle
    pldm := .idle, spi := [], recCount := 0, held := [], eid := 0, tid := 0 }

def Err.reset : Err :=
  { log := [], nextSeq := 0, logRead := 0, logLost := 0, lossSince := 0, second := 0, inSecond := 0, anchorNs := 0
    store := [], storeHeader := [], unread := [], summary := none, pmUnread := false, pmLost := 0, hbmCe := 0
    hbmUe := 0, poolCe := 0, poolUe := 0, flashCe := 0, flashUe := 0, poison := 0, challenge := 0, unlocked := false
    held := [] }

def Dbg.reset : Dbg := { poolAddr := 0, dvdbg := false, ir := .idcode, scan := 0 }

/-- The machine in cold reset, AON_RST_N low (R52, R53, Table 3-5). -/
def State.reset : State :=
  { fuse := Fuses.reset, pin := Pins.reset, boot := Boot.reset, host := HostPort.reset, ten := Tenants.reset
    str := Streams.reset, tick := Tick.reset, core := Core.reset, mem := Memory.reset, knot := Knots.reset
    sap := Sap.reset, link := Link.reset, time := Time.reset, lib := Lib.reset, pwr := Power.reset
    stw := Steward.reset, err := Err.reset, dbg := Dbg.reset, admin := none, out := [], draws := 0, pending := [] }

end Sys2Proof.Machine
end

