-- ==== Sys2Proof/Machine/Access.lean ====
section
/-! DEFINITION. The one way to read and write each numbered part of the state, and the facts the rules ask of it. -/

namespace Sys2Proof.Machine

/-! ### Functions and rings -/

def fnOf (s : State) (n : Nat) : FnState := tabGet FnState.reset s.host.fns n

def setHost (s : State) (h : HostPort) : State := { s with host := h }

def setFn (s : State) (n : Nat) (f : FnState) : State :=
  { s with host := { s.host with fns := tabSet n f s.host.fns } }

def modFn (s : State) (n : Nat) (g : FnState → FnState) : State := setFn s n (g (fnOf s n))

def ringIn (f : FnState) (r : Nat) : Ring := getAt Ring.reset f.rings r

def ringOf (s : State) (n r : Nat) : Ring := ringIn (fnOf s n) r

def setRing (s : State) (n r : Nat) (x : Ring) : State :=
  modFn s n (fun f => { f with rings := setAt f.rings r x })

/-- A ring that begins under a new enable (R75). -/
def ringFresh (x : Ring) : Ring := { x with devIdx := 0, stopped := false, seen := none, marks := [], fetching := false, stale := false }

/-- Ring size N = 2^LOG2SIZE (Table 4-5). -/
def ringSize (x : Ring) : Nat := 2 ^ x.log2

/-- Where entry i of a ring lies in host memory (R76). -/
def entryAddress (x : Ring) (i : Nat) : Nat := x.baseHi.toNat * 2 ^ 32 + x.baseLo.toNat + 64 * (i % ringSize x)

/-- Entries handed back by the host (R76): the last observed count, 0 before any. -/
def ringCount (x : Ring) : Nat := x.seen.getD 0

/-- Free entries of a result or event ring (R79). -/
def ringFree (x : Ring) : Nat := ringSize x - (x.devIdx - ringCount x)

/-- A ring that takes entries: enabled, not stopped (R80), and idle from any earlier disable (R75). -/
def ringLive (x : Ring) : Bool := x.enable && !x.stopped && !x.stale

/-- Function numbers 257 to 271 stand for function 0 of LD1 to LD15 (Table 4-2, log 18). -/
def ldFn (n : Nat) : Bool := decide (257 ≤ n) && decide (n ≤ 271)

/-- The other windows that an access names: the DBG block over JTAG (R47), the service port's view of ID.BOOT (03), BAR2/3 of function n as 1024 + n, and BAR4/5 of the PF (Table 4-2; log 18). -/
def jtagFn : Nat := 512
def serviceFn : Nat := 513
def msixBar (n : Nat) : Nat := 1024 + n
def isMsixBar (w : Nat) : Bool := decide (1024 ≤ w) && decide (w < 1280)
def componentBar : Nat := 2048

/-- The function whose registers a window shows. -/
def windowFn (w : Nat) : Nat :=
  if w = jtagFn || w = serviceFn || w = componentBar then 0 else if isMsixBar w then w - 1024 else w

/-- The functions that exist: the PF and the VFs that VF Enable gives (R71). -/
def fnExists (s : State) (n : Nat) : Bool := decide (n = 0) || decide (n ≤ s.host.vfNum)

/-- Any ring of the function enabled (R74). -/
def anyRing (f : FnState) : Bool := f.rings.any (·.enable)

/-! ### Tenants, streams -/

def tenOf (s : State) (t : Nat) : TenantRec := tabGet TenantRec.reset s.ten.recs t

def setTen (s : State) (t : Nat) (r : TenantRec) : State :=
  { s with ten := { s.ten with recs := tabSet t r s.ten.recs } }

def keyOf (s : State) (k : Nat) : Option KeySlot := tabFind s.ten.keys k

def setKey (s : State) (k : Nat) (x : KeySlot) : State :=
  { s with ten := { s.ten with keys := tabSet k x s.ten.keys } }

def clearKey (s : State) (k : Nat) : State :=
  { s with ten := { s.ten with keys := tabErase k s.ten.keys } }

def streamOf (s : State) (i : Nat) : Stream := tabGet Stream.reset s.str.table i

def setStream (s : State) (i : Nat) (x : Stream) : State :=
  { s with str := { s.str with table := tabSet i x s.str.table } }

def modStream (s : State) (i : Nat) (g : Stream → Stream) : State := setStream s i (g (streamOf s i))

/-- A stream holds an ID from its OPEN until it is CLOSED (R113, R117). -/
def holdsId (x : Stream) : Bool := x.st != .closed

/-- Streams a tenant has open. -/
def openCount (s : State) (t : Nat) : Nat :=
  (s.str.table.filter (fun x => holdsId x.2 && x.2.tenant == t)).length

/-- Class A streams a tenant has open. -/
def openCountA (s : State) (t : Nat) : Nat :=
  (s.str.table.filter (fun x => holdsId x.2 && x.2.tenant == t && x.2.cls == 0)).length

/-- The charge of a tenant (R93). -/
def chargeOf (r : TenantRec) (opened : Nat) : Nat :=
  if !r.enabled && opened = 0 then 0 else max r.streamQuota opened

/-- TEN.QUOTA_SUM (Table 5-3). -/
def quotaSum (s : State) : Nat :=
  (List.range 256).foldl (fun a t => a + chargeOf (tenOf s t) (openCount s t)) 0

/-- Any tenant record other than T0's enabled (R186). -/
def otherTenantEnabled (s : State) : Bool := s.ten.recs.any (fun x => x.1 != 0 && x.2.enabled)

/-- The stream IDs in ascending order. -/
def streamIds (s : State) : List Nat := s.str.table.map (·.1)

/-! ### Core -/

def queueOf (s : State) (q : Nat) : Queue := getAt Queue.reset s.core.queues q

def setQueue (s : State) (q : Nat) (x : Queue) : State :=
  { s with core := { s.core with queues := setAt s.core.queues q x } }

def slotOf (s : State) (h : Nat) : Slot := tabGet Slot.reset s.core.slots h

def setSlot (s : State) (h : Nat) (x : Slot) : State :=
  { s with core := { s.core with slots := tabSet h x s.core.slots } }

/-- Slots whose count is not 0. -/
def heldSlots (s : State) : List Nat := (s.core.slots.filter (fun x => x.2.count != 0)).map (·.1)

/-- SAP.SLOT_FREE (Table 11-6). -/
def slotsFree (s : State) : Nat := 1024 - (heldSlots s).length

def hqOf (s : State) (i : Nat) : List Nat := getAt [] s.core.hqs i

def setHq (s : State) (i : Nat) (x : List Nat) : State :=
  { s with core := { s.core with hqs := setAt s.core.hqs i x } }

/-- The plan that runs: active and not halted (R180, R251). -/
def runningPlan (s : State) : Option Plan := if s.core.halted then none else s.core.active

/-- Every queue has executed END (R130). A chip with no queue started has nothing to end. -/
def queueDone (q : Queue) : Bool := q.st == .ended || q.st == .idle

def knotOf (s : State) (k : Nat) : Nat := getAt 0 s.knot.vals k

def setKnot (s : State) (k v : Nat) : State :=
  { s with knot := { s.knot with vals := setAt s.knot.vals k v } }

/-! ### Ports and time -/

def portOf (s : State) (p : Nat) : Port := getAt Port.reset s.link.ports p

def setPort (s : State) (p : Nat) (x : Port) : State :=
  { s with link := { s.link with ports := setAt s.link.ports p x } }

def modPort (s : State) (p : Nat) (g : Port → Port) : State := setPort s p (g (portOf s p))

def isActive (s : State) (p : Nat) : Bool := (portOf s p).st == .active

/-- The ACTIVE ports in ascending order. -/
def activePorts (s : State) : List Nat := (List.range 8).filter (isActive s)

/-- Discovery of the chip is complete (R247). -/
def discovered (s : State) : Bool := !(activePorts s).isEmpty

/-- TICK.STATUS.RUNNING (Table 13-1). -/
def timeRuns (s : State) : Bool := s.time.st != .unsync

/-- The tick period T in ns (Table 6-2). -/
def periodNs (s : State) : Nat := s.tick.quarters * 250000

/-- Grove time as events carry it: 0 before it is synchronised (Table 4-11). -/
def stampNow (s : State) : Nat := if timeRuns s then s.time.now else 0

/-- The tick index as log records carry it: 0 while no boundaries run (Table 17-5). -/
def stampTick (s : State) : Nat := if timeRuns s then s.tick.index else 0

/-- The tick that begins at the next boundary. A skipped boundary has passed too (R185), so that it is not always the one after the tick in progress. -/
def nextTick (s : State) : Nat := s.time.now / periodNs s + 1

/-- Grove time of the next boundary (R107). -/
def nextBoundaryNs (s : State) : Nat := nextTick s * periodNs s

/-- Grove time of the cut that ends the intake of the tick in which grove time stands (R24). -/
def cutNs (s : State) : Nat := nextBoundaryNs s - 500000

/-- Grove time of the next event of the tick: the cut while the intake of the tick in progress is still open, then the boundary. -/
def nextEventNs (s : State) : Nat := if s.tick.intake ≤ s.time.now / periodNs s then cutNs s else nextBoundaryNs s

/-- A moment that comes before the next cut or boundary, or any moment while no boundaries are generated. -/
def beforeBoundary (s : State) (t : Nat) : Bool := !timeRuns s || decide (t < nextEventNs s)

/-- How far grove time goes in one ns of log time, in 10^-6 ns: the rate trim is in ppm (R257, R263). -/
def timeRate (s : State) : Nat := ((1000000 : Int) + s.time.trim).toNat

/-- Grove time, in 10^-6 ns, after d ns of log time. -/
def timeAfter (s : State) (d : Nat) : Nat := s.time.now * 1000000 + s.time.fraction + d * timeRate s

/-- The log time in ns until grove time reads t. -/
def logUntil (s : State) (t : Nat) : Nat := ceilDiv (t * 1000000 - (s.time.now * 1000000 + s.time.fraction)) (timeRate s)

/-- Grove time brought forward to a moment that a command names (log 3). -/
def advanceTo (s : State) (t : Nat) : State :=
  if s.time.now < t then
    { s with time := { s.time with now := t, fraction := 0, logNs := s.time.logNs + logUntil s t } }
  else s

/-- A warm reset whose boundary has come: the chip is absent, and no admin descriptor starts (R69). -/
def resetDue (s : State) : Bool :=
  match s.boot.warm with
  | some w => w.due
  | none => false

/-- Whether the main domains run (R60). -/
def mainOn (s : State) : Bool := s.boot.dom == .on

/-- d ns of log time pass. Grove time counts from the release of the main domains, and stands still while they are off or in reset (R257). -/
def passTime (s : State) (d : Nat) : State :=
  if mainOn s then
    { s with time := { s.time with now := timeAfter s d / 1000000, fraction := timeAfter s d % 1000000, logNs := s.time.logNs + d } }
  else { s with time := { s.time with logNs := s.time.logNs + d } }

/-- Whether the steward answers the service port: any time its rails are up and it is out of reset (R33, R59). -/
def serviceUp (s : State) : Bool := s.boot.phase != .held

/-! ### Sending out and drawing -/

def emit (s : State) (o : Out) : State := { s with out := o :: s.out }

/-- A random number below m, and the state after the draw (log 7). -/
def drawRandom (s : State) (m : Nat) : Nat × State :=
  (Config.entropy s.draws % m, { s with draws := s.draws + 1 })

/-- A new random debug CHALLENGE (R338). -/
def newChallenge (s : State) : State :=
  let p := drawRandom s (2 ^ 64)
  { p.2 with err := { p.2.err with challenge := p.1 } }

/-- KNOT.MODE.HOLD as it reads: the value written last (Table 9-3). -/
def holdReads (s : State) : Bool := s.knot.holdReq.getD s.knot.hold

/-! ### Memories -/

/-- A 64-byte unit meets one of some byte ranges (address, length). -/
def unitIn (ranges : List (Nat × Nat)) (u : Nat) : Bool :=
  ranges.any (fun r => decide (u * 64 < r.1 + r.2) && decide (r.1 < u * 64 + 64))

/-- The units that a write of the bytes a to a + n - 1 does not replace whole. -/
def notReplaced (units : List Nat) (a n : Nat) : List Nat := units.filter (fun u => decide (u * 64 < a) || decide (a + n < u * 64 + 64))

/-- A read of ranges of the pool: the damaged units that it meets are marked poisoned and counted (R327). -/
def readPool (s : State) (ranges : List (Nat × Nat)) : State :=
  let met := s.mem.poolBad.filter (unitIn ranges)
  if met.isEmpty then s
  else { s with mem := { s.mem with poolBad := s.mem.poolBad.filter (fun u => !unitIn ranges u)
                                    poolPoison := met.foldl (fun l u => insertNat u l) s.mem.poolPoison }
                err := { s.err with poolUe := met.foldl (fun c _ => satAdd c 1) s.err.poolUe } }

/-- A read of ranges of HBM, likewise. -/
def readHbm (s : State) (ranges : List (Nat × Nat)) : State :=
  let met := s.mem.hbmBad.filter (unitIn ranges)
  if met.isEmpty then s
  else { s with mem := { s.mem with hbmBad := s.mem.hbmBad.filter (fun u => !unitIn ranges u)
                                    hbmPoison := met.foldl (fun l u => insertNat u l) s.mem.hbmPoison }
                err := { s.err with hbmUe := met.foldl (fun c _ => satAdd c 1) s.err.hbmUe } }

/-- Bytes of the pool. Slot h starts at byte 65,536 h; work-area unit WA at 64 MiB + 64 WA (R344). -/
def poolBytes (s : State) (a n : Nat) : List Byte := memBytes 0 s.mem.pool a n

def poolWrite (s : State) (a : Nat) (bs : List Byte) : State :=
  { s with mem := { s.mem with pool := memWrite 0 s.mem.pool a bs
                               poolPoison := notReplaced s.mem.poolPoison a bs.length
                               poolBad := notReplaced s.mem.poolBad a bs.length } }

def slotBase (h : Nat) : Nat := 65536 * h
def workBase (wa : Nat) : Nat := 0x4000000 + 64 * wa
def planBase (buf : Nat) : Nat := 0x7000000 + 0x600000 * buf

/-- 64 KiB of zeros in a slot (R99). -/
def slotZero (s : State) (h : Nat) : State :=
  { s with mem := { s.mem with pool := memClear s.mem.pool (slotBase h) 65536
                               poolPoison := notReplaced s.mem.poolPoison (slotBase h) 65536
                               poolBad := notReplaced s.mem.poolBad (slotBase h) 65536 } }

def hbmBytes (s : State) (a n : Nat) : List Byte := memBytes 0 s.mem.hbm a n

def hbmWrite (s : State) (a : Nat) (bs : List Byte) : State :=
  { s with mem := { s.mem with hbm := memWrite 0 s.mem.hbm a bs
                               hbmPoison := notReplaced s.mem.hbmPoison a bs.length
                               hbmBad := notReplaced s.mem.hbmBad a bs.length } }

def hbmZero (s : State) (a n : Nat) : State :=
  { s with mem := { s.mem with hbm := memClear s.mem.hbm a n
                               hbmPoison := notReplaced s.mem.hbmPoison a n
                               hbmBad := notReplaced s.mem.hbmBad a n } }

/-- n bytes of HBM at src copied into the pool at dst. -/
def hbmToPool (s : State) (src dst n : Nat) : State :=
  { s with mem := { s.mem with pool := memPut s.mem.pool dst n (memSlice s.mem.hbm src n dst), poolBad := notReplaced s.mem.poolBad dst n } }

/-- n bytes of the pool at src copied into HBM at dst. -/
def poolToHbm (s : State) (src dst n : Nat) : State :=
  { s with mem := { s.mem with hbm := memPut s.mem.hbm dst n (memSlice s.mem.pool src n dst), hbmBad := notReplaced s.mem.hbmBad dst n } }

/-- n bytes of HBM at src copied to dst. -/
def hbmToHbm (s : State) (src dst n : Nat) : State :=
  { s with mem := { s.mem with hbm := memPut s.mem.hbm dst n (memSlice s.mem.hbm src n dst), hbmBad := notReplaced s.mem.hbmBad dst n } }

/-- The end of HBM: 192 GiB (Table 14-1). -/
def hbmEnd : Nat := 192 * 2 ^ 30

/-- A poisoned 64-byte unit among the bytes a to a + n - 1. -/
def poisonIn (units : List Nat) (a n : Nat) : Bool :=
  units.any (fun u => decide (u * 64 < a + n) && decide (a < u * 64 + 64))

end Sys2Proof.Machine
end

