-- ==== Sys2Proof/Machine/Spi.lean ====
section
/-! DEFINITION. The boot flash (16): the boot record, the steward image and its checks, the configuration store, the recovery log. -/

namespace Sys2Proof.Machine

/-- Bytes of the SPI NOR; erased bytes read 0xFF. -/
def spiBytes (s : State) (a n : Nat) : List Byte := memBytes 0xFF s.stw.spi a n

def spiWrite (s : State) (a : Nat) (bs : List Byte) : State :=
  { s with stw := { s.stw with spi := memWrite 0xFF s.stw.spi a bs } }

def spiErase (s : State) (a n : Nat) : State :=
  { s with stw := { s.stw with spi := memClear s.stw.spi a n } }

/-- The base of slot A (0) or B (1) (Table 16-1). -/
def fwSlotBase (slot : Nat) : Nat := if slot = 0 then 0 else 0x1800000

def otherSlot (slot : Nat) : Nat := 1 - slot

/-! ### The boot record (Table 16-5, R309) -/

structure BootRec where
  seq : Nat
  primary : Nat
  pending : Nat
  cfgCopy : Nat
  marks : List Byte
  deriving DecidableEq, Repr

def recBase (sector : Nat) : Nat := 0x3800000 + 0x1000 * sector

def recParse (bs : List Byte) : Option BootRec :=
  if bs.take 4 = [0x53, 0x4B, 0x42, 0x52] && leAt bs 12 4 = crc32c (bs.take 12) then
    some { seq := leAt bs 4 4, primary := leAt bs 8 1, pending := leAt bs 9 1, cfgCopy := leAt bs 10 1
           marks := bytesAt bs 16 16 }
  else none

def recAt (s : State) (sector : Nat) : Option BootRec := recParse (spiBytes s (recBase sector) 32)

/-- The current record and its sector: the valid sector with the greater SEQ (R309). -/
def recCurrent (s : State) : Option (Nat × BootRec) :=
  match recAt s 0, recAt s 1 with
  | some a, some b => if a.seq < b.seq then some (1, b) else some (0, a)
  | some a, none => some (0, a)
  | none, some b => some (1, b)
  | none, none => none

/-- The record in force; PRIMARY A, PENDING none and CFG_COPY 0 when no sector is valid (R309). -/
def bootRec (s : State) : BootRec :=
  match recCurrent s with
  | some (_, r) => r
  | none => { seq := 0, primary := 0, pending := 0xFF, cfgCopy := 0, marks := List.replicate 16 0xFF }

def slotCode (slot : Nat) : Byte := if slot = 0 then 0xA0 else 0xB0

/-- Attempts of a slot: its MARKS bytes, or the always-on register when no record is valid (R309). -/
def attempts (s : State) (slot : Nat) : Nat :=
  match recCurrent s with
  | some (_, r) => (r.marks.filter (fun b => b == slotCode slot || (b != 0xFF && b != 0xA0 && b != 0xB0))).length
  | none => if slot = 0 then s.boot.attA else s.boot.attB

/-- A new record in the other sector with SEQ + 1; `marks` as given (R309). -/
def recWrite (s : State) (primary pending cfgCopy : Nat) (marks : List Byte) : State :=
  let sector := match recCurrent s with
    | some (i, _) => 1 - i
    | none => 0
  let seq := match recCurrent s with
    | some (_, r) => (r.seq + 1) % 2 ^ 32
    | none => 1
  let head := [(0x53 : Byte), 0x4B, 0x42, 0x52] ++ leBytes 4 seq ++ leBytes 1 primary ++ leBytes 1 pending ++
    leBytes 1 cfgCopy ++ [0]
  spiWrite (spiErase s (recBase sector) 0x1000) (recBase sector) (head ++ leBytes 4 (crc32c head) ++ marks)

def marksClear : List Byte := List.replicate 16 0xFF

/-- The marks with those of one slot cleared (R319). -/
def marksWithout (marks : List Byte) (slot : Nat) : List Byte :=
  let kept := marks.filter (fun b => b != slotCode slot && b != 0xFF)
  kept ++ List.replicate (16 - kept.length) 0xFF

/-- The next 0xFF byte of MARKS programmed with the slot's code (R310). -/
def markAttempt (s : State) (slot : Nat) : State :=
  match recCurrent s with
  | some (i, r) =>
    match r.marks.findIdx? (· == 0xFF) with
    | some j => spiWrite s (recBase i + 16 + j) [slotCode slot]
    | none => s
  | none =>
    if slot = 0 then { s with boot := { s.boot with attA := s.boot.attA + 1 } }
    else { s with boot := { s.boot with attB := s.boot.attB + 1 } }

/-! ### The steward image (Tables 16-2 to 16-4) -/

/-- A component entry: TYPE, OFFSET, LEN, digest. -/
structure FwComp where
  kind : Nat
  offset : Nat
  len : Nat
  digest : List Byte
  deriving DecidableEq, Repr

def fwCompAt (h : List Byte) (i : Nat) : FwComp :=
  { kind := leAt h (64 + 64 * i) 1, offset := leAt h (68 + 64 * i) 4, len := leAt h (72 + 64 * i) 4
    digest := bytesAt h (80 + 64 * i) 48 }

def fwImageLen (h : List Byte) : Nat := leAt h 8 4
def fwSvn (h : List Byte) : Nat := leAt h 16 4
def fwVersion (h : List Byte) : Nat := leAt h 20 4
def fwComps (h : List Byte) : List FwComp := (List.range (min 16 (leAt h 32 4))).map (fwCompAt h)
def fwCfgWrite (h : List Byte) : Nat := leAt h 26 2

/-- Step 1: MAGIC, VERSION, HDR_LEN. -/
def fwHdrOk (h : List Byte) : Bool :=
  h.take 4 == [0x53, 0x4B, 0x46, 0x57] && leAt h 4 2 == 1 && leAt h 6 2 == 4096

/-- Step 2: reserved bytes, TARGET_REV, lengths and components (Table 16-3). -/
def fwFieldOk (h : List Byte) : Bool :=
  let cs := fwComps h
  let n := leAt h 32 4
  let len := fwImageLen h
  zeroAt h 12 4 && zeroAt h 36 28 && zeroAt h 1088 2784 && zeroAt h 4064 32 &&
  leAt h 24 1 == 0xA1 && len % 4096 == 0 && decide (8192 ≤ len) && decide (len ≤ 24 * 2 ^ 20) &&
  decide (1 ≤ n) && decide (n ≤ 16) && zeroAt h (64 + 64 * n) (64 * (16 - n)) &&
  (List.range n).all (fun i => zeroAt h (65 + 64 * i) 3 && zeroAt h (76 + 64 * i) 4) &&
  cs.all (fun c => decide (1 ≤ c.kind) && decide (c.kind ≤ 5) && c.offset % 4096 == 0 && decide (4096 ≤ c.offset) &&
    decide (c.offset + c.len ≤ len)) &&
  (List.range n).all (fun i => (List.range i).all (fun j =>
    let a := fwCompAt h i
    let b := fwCompAt h j
    decide (a.offset + a.len ≤ b.offset) || decide (b.offset + b.len ≤ a.offset))) &&
  (cs.filter (fun c => c.kind == 1)).length == 1 &&
  cs.all (fun c => c.kind != 1 || decide (c.len ≤ 1536 * 1024)) &&
  [2, 3, 4, 5].all (fun k => decide ((cs.filter (fun c => c.kind == k)).length ≤ 1))

/-- Whether a signing key is known and not revoked (R308 step 3, R338). -/
def signKeyOk (s : State) (index : Nat) (pub : List Byte) : Bool :=
  decide (index ≤ 3) && !s.fuse.revoked.toNat.testBit index && sha384 pub == getAt [] s.fuse.keyDigests index

/-- The configuration copy and its 64-byte header (16, "The configuration store"). -/
def cfgBase (copy : Nat) : Nat := 0x3000000 + 0x400000 * copy
def cfgHeader (s : State) (copy : Nat) : List Byte := spiBytes s (cfgBase copy) 64

def cfgValid (s : State) (copy : Nat) : Bool :=
  let h := cfgHeader s copy
  h.take 4 == [0x53, 0x4B, 0x43, 0x46] && leAt h 60 4 == crc32c (h.take 60) && decide (leAt h 10 4 ≤ 0x400000 - 64) &&
  leAt h 14 4 == crc32c (spiBytes s (cfgBase copy + 64) (leAt h 10 4))

def cfgFormat (s : State) (copy : Nat) : Nat := leAt (cfgHeader s copy) 4 2

/-- Step 6: the format of the current configuration copy lies outside what the image reads. -/
def fwCfgOk (s : State) (h : List Byte) : Bool :=
  let c := (bootRec s).cfgCopy
  !cfgValid s c || (decide (leAt h 28 2 ≤ cfgFormat s c) && decide (cfgFormat s c ≤ leAt h 30 2))

/-- Steps 1 to 5 of R308, and step 6 in a transfer: 0, or the check code. -/
def fwCheckHeader (s : State) (h : List Byte) (transfer : Bool) : Nat :=
  if !fwHdrOk h then 1
  else if !fwFieldOk h then 2
  else if !signKeyOk s (leAt h 25 1) (bytesAt h 3872 96) then 3
  else if !ecdsaVerify (bytesAt h 3872 96) (bytesAt h 3968 96) (sha384 (h.take 3968)) then 4
  else if fwSvn h < s.fuse.svnBlown then 5
  else if transfer && !fwCfgOk s h then 6
  else 0

/-- Step 7 over components that pass the filter, of an image at a flash address. -/
def fwDigestsOk (s : State) (base : Nat) (h : List Byte) (which : FwComp → Bool) : Bool :=
  (fwComps h).all (fun c => !which c || sha384 (spiBytes s (base + c.offset) c.len) == c.digest)

def fwHeaderOf (s : State) (slot : Nat) : List Byte := spiBytes s (fwSlotBase slot) 4096

/-- A slot with a valid header holds a whole image (R315). -/
def slotWhole (s : State) (slot : Nat) : Bool :=
  let h := fwHeaderOf s slot
  fwHdrOk h && fwFieldOk h

/-- STW.SLOT_A, SLOT_B (Table 16-9). -/
def slotVersion (s : State) (slot : Nat) : Nat := if slotWhole s slot then fwVersion (fwHeaderOf s slot) else 0

/-- The target slot: the slot other than PRIMARY (16, "Transfer"). -/
def targetSlot (s : State) : Nat := otherSlot ((bootRec s).primary % 2)

/-! ### The recovery log (R322) -/

def recLogBase : Nat := 0x3802000
def recLogCap : Nat := (0x4000000 - 0x3802000) / 32

/-- A record appended; the sector it opens is erased first. -/
def recLogAppend (s : State) (kind slot check version : Nat) : State :=
  let seq := s.stw.recCount
  let a := recLogBase + 32 * (seq % recLogCap)
  let s := if a % 4096 = 0 then spiErase s a 4096 else s
  let body := leBytes 4 seq ++ leBytes 1 kind ++ leBytes 1 slot ++ leBytes 1 check ++ [0] ++ leBytes 4 version ++
    leBytes 4 ((s.time.logNs - s.boot.releaseNs) / 1000000) ++ List.replicate 12 0
  let s := spiWrite s a (body ++ leBytes 4 (crc32c body))
  { s with stw := { s.stw with recCount := seq + 1 } }

/-- Whether the running slot is not PRIMARY (R311). -/
def isTrial (s : State) : Bool :=
  s.boot.phase == .firmware && decide (s.boot.slot ≠ (bootRec s).primary)

/-- The copy that the firmware of an image reads: the current one, else the other when it is valid and in a format the image reads, else none: defaults (R314). -/
def cfgSource (s : State) (h : List Byte) : Option Nat :=
  let c := (bootRec s).cfgCopy % 2
  let readable := decide (leAt h 28 2 ≤ cfgFormat s (1 - c)) && decide (cfgFormat s (1 - c) ≤ leAt h 30 2)
  if cfgValid s c then some c else if cfgValid s (1 - c) && readable then some (1 - c) else none

/-- GENERATION and body of the configuration in force: 0 and no bytes where the firmware starts from defaults. -/
def cfgBody (s : State) (h : List Byte) : Nat × List Byte :=
  match cfgSource s h with
  | some c => (leAt (cfgHeader s c) 6 4, spiBytes s (cfgBase c + 64) (leAt (cfgHeader s c) 10 4))
  | none => (0, [])

/-- The configuration written to the other copy in the CFG_WRITE format of an image, with GENERATION + 1 (R314). -/
def cfgConvert (s : State) (h : List Byte) : State :=
  let c := (bootRec s).cfgCopy % 2
  let b := cfgBody s h
  let head := [(0x53 : Byte), 0x4B, 0x43, 0x46] ++ leBytes 2 (fwCfgWrite h) ++ leBytes 4 (b.1 + 1) ++ leBytes 4 b.2.length ++
    leBytes 4 (crc32c b.2) ++ List.replicate 42 0
  spiWrite (spiErase s (cfgBase (1 - c)) 0x400000) (cfgBase (1 - c)) (head ++ leBytes 4 (crc32c head) ++ b.2)

/-- A configuration write by the running firmware: the other copy, then a boot record that flips CFG_COPY; a trial never flips it (R314). The body's layout is not given: it keeps the bytes it had (log 75). -/
def cfgStore (s : State) : State :=
  if s.boot.phase != .firmware then s
  else
    let r := bootRec s
    let t := cfgConvert s (fwHeaderOf s s.boot.slot)
    if isTrial s then t else recWrite t r.primary r.pending (1 - r.cfgCopy % 2) r.marks

end Sys2Proof.Machine
end

