-- ==== Sys2Proof/Machine/Flags.lean ====
section
/-! DEFINITION. What every register reads (R342, R346, Tables 3-3, 4-4, 4-5, 5-3, 6-2, 7-16, 9-3, 11-6, 12-8, 13-3,
14-5, 15-4, 16-9, 17-11, 18-4), and the levels of the pins the chip drives (Table 2-7). Most status fields are
computed here from the state they show. -/

namespace Sys2Proof.Machine

/-! ### Function register set (Table 4-3) -/

/-- DB_MODE.EFF_POLL: polling, and a ring enabled (Table 4-4). -/
def effPoll (s : State) (f : FnState) : Bool := anyRing f && (f.poll || !s.host.cacheEn)

/-- DB_MODE (Table 4-4). -/
def dbMode (s : State) (f : FnState) : Nat := f.pollUs * 16 + b2n (effPoll s f) * 2 + b2n f.poll

/-- RING_CTRL (Table 4-5). -/
def ringCtrl (x : Ring) : Nat := x.log2 * 0x10000 + b2n x.stopped * 2 + b2n x.enable

/-- The number of rings of a function: ring 3 exists only for T0 (R73). -/
def ringCount? (n : Nat) : Nat := if n = 0 then 4 else if n < 256 then 3 else 0

/-- A 32-bit register of the function set, at offset o from F. -/
def fnReg (s : State) (n o : Nat) : Nat :=
  let f := fnOf s n
  if o = 0 then n
  else if o = 8 then f.dbLo.toNat
  else if o = 12 then f.dbHi.toNat
  else if o = 16 then dbMode s f
  else
    let r := (o - 0x100) / 0x20
    let x := ringIn f r
    if o < 0x100 || ringCount? n ≤ r then 0
    else if o % 0x20 = 0 then x.baseLo.toNat
    else if o % 0x20 = 4 then x.baseHi.toNat
    else if o % 0x20 = 8 then ringCtrl x
    else 0

/-- Whether an offset from F names a register of the function set. -/
def fnRegKnown (n o : Nat) : Bool :=
  o = 0 || o = 8 || o = 12 || o = 16 ||
  (decide (0x100 ≤ o) && decide ((o - 0x100) / 0x20 < ringCount? n) &&
    [0, 4, 8, 16, 20].contains (o % 0x20))

/-! ### Status fields -/

/-- ID.BOOT.LINKS_DONE: every port trained or declared dark (Table 3-3). -/
def linksDone (s : State) : Bool := s.link.ports.all (·.settled)

/-- ID.BOOT (Table 3-3). -/
def idBoot (s : State) : Nat :=
  s.boot.kind * 0x10000 + b2n s.lib.isOpen * 0x800 + b2n (linksDone s) * 0x400 + b2n s.boot.hbmOk * 0x200 +
    b2n s.boot.ready * 0x100 + s.boot.slot

/-- CORE.PLAN_STATE (Table 7-16). -/
def planState (s : State) : Nat :=
  (if s.core.standby.isNone then 0 else if s.core.armed then 2 else 1) + b2n s.core.activeBuf * 4 +
    b2n s.core.active.isSome * 8

/-- The state codes of CORE.QSTAT (Table 7-16). -/
def QStatus.code : QStatus → Nat
  | .idle => 0
  | .running => 1
  | .waitKnot => 2
  | .waitTime => 3
  | .fencing => 4
  | .ended => 5
  | .halted => 6

/-- CORE.QSTAT of queue q. -/
def qstat (s : State) (q : Nat) : Nat := (queueOf s q).st.code * 0x100000 + (queueOf s q).head % 0x100000

/-- The port state codes (Table 12-6). -/
def PortState.code : PortState → Nat
  | .dark => 0
  | .training => 1
  | .discovery => 2
  | .active => 3
  | .drain => 4
  | .miscabled => 5

/-- LINK.PORT_STATE (Table 12-8). -/
def portStates (s : State) : Nat := (List.range 8).foldr (fun p a => a * 16 + (portOf s p).st.code) 0

/-- LINK.CHIP_ID (Table 12-8). -/
def chipIdReg (s : State) : Nat := b2n s.link.valid * 0x8000 + s.link.chipId

/-- The time state codes (Table 13-1). -/
def TimeState.code : TimeState → Nat
  | .unsync => 0
  | .sync => 1
  | .holdover => 2
  | .root => 3

/-- TIME.STATE (Table 13-3). -/
def timeStateReg (s : State) : Nat := s.time.rootId * 0x100 + b2n s.time.groveRoot * 4 + s.time.st.code

/-- TICK.STATUS (Table 6-2). -/
def tickStatus (s : State) : Nat :=
  b2n s.core.active.isSome * 0x200 + b2n (timeRuns s) * 0x100 + s.tick.admitted.toNat

/-- A signed value in w bits of two's complement. -/
def signedBits (w : Nat) (x : Int) : Nat := (x % (2 ^ w : Nat)).toNat

/-- PWR.THERMAL (Table 15-4). -/
def thermal (s : State) : Nat :=
  b2n s.pwr.brake * 0x40000 + s.pwr.band * 0x10000 + signedBits 8 s.pwr.thbm * 0x100 + signedBits 8 s.pwr.tj

/-- KNOT.MODE (Table 9-3). HOLD shows the value written last; HELD is the mode's own. -/
def knotMode (s : State) : Nat := b2n s.knot.held * 2 + b2n (holdReads s)

/-- LIB.HOSTS: live hosts with a committed decoder (Table 14-5). -/
def libHosts (s : State) : Nat := (s.host.decoders &&& ~~~s.host.dead).toNat

/-- Whether a prefetch record shows work in progress (LIB.PREFETCH). -/
def recRunning (r : PrefetchRec) : Bool := r.running

def FwState.code : FwState → Nat
  | .idle => 0
  | .receiving => 1
  | .staged => 2
  | .pending => 3
  | .trial => 4

/-- STW.FW_STATE (Table 16-9). -/
def fwStateReg (s : State) : Nat := b2n s.stw.pathService * 8 + s.stw.fw.code

/-- STW.BOOTREC (Table 16-9). -/
def bootrecReg (s : State) : Nat :=
  let r := bootRec s
  r.cfgCopy % 2 * 0x1000000 + min (attempts s 1) 15 * 0x100000 + min (attempts s 0) 15 * 0x10000 + r.pending * 0x100 +
    r.primary % 2

/-- ERR.FAULT_PEND (Table 17-11). -/
def faultPend (s : State) : Nat :=
  match s.err.unread with
  | [] => 0
  | r :: _ => 1 + bitsOf r.detail 7 0 * 0x100

/-! ### DBG (Table 18-4) -/

/-- The debug window answers only while unlocked (R345). -/
def dbgWord (s : State) : Nat :=
  let a := 8 * s.dbg.poolAddr
  if !holdReads s then 0
  else if poisonIn s.mem.poolPoison a 8 then 0xFFFFFFFFFFFFFFFF
  else if 0x7C00000 ≤ a then Config.planAreaWord s.draws s.dbg.poolAddr % 2 ^ 64
  else leNat (poolBytes s a 8)

/-- DBG.POOL_TAG (Table 18-4). -/
def dbgTag (s : State) : Nat :=
  let a := 8 * s.dbg.poolAddr
  let inSlot := decide (a < 0x4000000)
  let tag := (slotOf s (a / 65536)).tag
  b2n (poisonIn s.mem.poolPoison a 8) * 0x400 + b2n inSlot * 0x200 + b2n (inSlot && tag.isNone) * 0x100 +
    (if inSlot then tag.getD 0 else 0)

/-! ### 64-bit registers -/

/-- The value of a 64-bit register of the PF map, by its low offset (R2, Table 18-2). -/
def reg64 (s : State) (o : Nat) : Option Nat :=
  if o = 0x20060 then some s.fuse.serial
  else if o = 0x30008 then some s.tick.index
  else if o = 0x30018 then some s.tick.ckpt
  else if o = 0x40008 then some ((s.core.active.map (·.setId)).getD 0)
  else if o = 0x40010 then some ((s.core.standby.map (·.setId)).getD 0)
  else if o = 0x40018 then some (if s.core.armed then s.core.commitN else 0)
  else if o = 0x60010 then some s.sap.bytesOut
  else if o = 0x60018 then some s.sap.bytesIn
  else if o = 0x80000 then some s.time.now
  else if o = 0x90040 then some s.lib.flashRd
  else if o = 0x90048 then some s.lib.flashWr
  else if o = 0xA0028 then some s.pwr.energy
  else if o = 0xC0040 then some s.err.challenge
  else if o = 0xF0010 then some (if s.err.unlocked then dbgWord s else 0)
  else if 0x70100 ≤ o && o < 0x70300 && o % 0x40 = 0 then some (portOf s ((o - 0x70100) / 0x40)).bytesTx
  else if 0x70100 ≤ o && o < 0x70300 && o % 0x40 = 8 then some (portOf s ((o - 0x70100) / 0x40)).bytesRx
  else none

/-- The value of a 64-bit register of a function's own set: RING_DEVIDX, at +0x10 of a ring. -/
def fnReg64 (s : State) (n o : Nat) : Option Nat :=
  if 0x100 ≤ o && (o - 0x100) / 0x20 < ringCount? n && o % 0x20 = 0x10 then
    some (ringIn (fnOf s n) ((o - 0x100) / 0x20)).devIdx
  else none

/-! ### 32-bit registers -/

/-- A port's 32-bit register, at offset o within its window (Table 12-8). -/
def portReg (x : Port) (o : Nat) : Nat :=
  if o = 0x10 then x.replays
  else if o = 0x14 then x.naks
  else if o = 0x18 then x.fecCorr
  else if o = 0x1C then x.fecUncorr
  else if o = 0x20 then x.discard
  else if o = 0x24 then x.retry
  else if o = 0x28 then x.downs
  else if o = 0x2C then x.lastSlot * 0x10000 + x.lastGrove * 0x100 + x.attempt
  else 0

/-- Words 0 to 8 of TEN.KEYVALID (Table 5-3). -/
def keyValidWord (s : State) (w : Nat) : Nat :=
  (List.range 32).foldr (fun i a => a * 2 + b2n (keyOf s (32 * w + i)).isSome) 0

def idReg (s : State) (o : Nat) : Nat :=
  if o = 0 then s.fuse.vendor.toNat
  else if o = 4 then 0xA1
  else if o = 0x20 then s.boot.strap.toNat
  else if o = 0x24 then idBoot s
  else 0

def tenReg (s : State) (o : Nat) : Nat :=
  if o < 0x60 then leAt s.fuse.idPub o 4
  else if 0x100 ≤ o && o ≤ 0x120 then keyValidWord s ((o - 0x100) / 4)
  else if o = 0x200 then quotaSum s
  else 0

def tickReg (s : State) (o : Nat) : Nat :=
  if o = 0 then s.tick.quarters
  else if o = 0x10 then tickStatus s
  else if o = 0x14 then (s.str.table.filter (fun x => holdsId x.2)).length
  else 0

def coreReg (s : State) (o : Nat) : Nat :=
  if o = 0 then planState s
  else if 0x100 ≤ o && o ≤ 0x11C then qstat s ((o - 0x100) / 4)
  else if 0x200 ≤ o && o ≤ 0x23C then (hqOf s ((o - 0x200) / 4)).length
  else 0

def knotReg (s : State) (o : Nat) : Nat :=
  if o ≤ 0xBC then knotOf s (o / 4)
  else if o = 0x100 then knotMode s
  else if o = 0x108 then s.knot.dumpsLost * 0x100 + b2n s.knot.dumpUnread
  else 0

def sapReg (s : State) (o : Nat) : Nat :=
  if o = 0 then slotsFree s
  else if o = 4 then s.sap.carried
  else if o = 8 then s.sap.voided
  else if o = 0x20 then s.sap.late
  else if o = 0x24 then s.sap.checkFail
  else if o = 0x28 then s.sap.lastCheck
  else 0

def linkReg (s : State) (o : Nat) : Nat :=
  if o = 0 then chipIdReg s
  else if o = 4 then portStates s
  else if 0x100 ≤ o && o < 0x300 then portReg (portOf s ((o - 0x100) / 0x40)) (o % 0x40)
  else 0

/-- TIME.PARENT (Table 13-3). -/
def parentReg (s : State) : Nat :=
  match s.time.parent with
  | some (chip, port) => 0x8000 + port * 0x800 + chip
  | none => 0

def timeReg (s : State) (o : Nat) : Nat :=
  if o = 8 then timeStateReg s
  else if o = 0xC then parentReg s
  else if o = 0x10 then signedBits 32 s.time.offset
  else if o = 0x14 then s.time.steps
  else if o = 0x18 then s.time.holdovers
  else 0

def libReg (s : State) (o : Nat) : Nat :=
  if o = 0 then b2n s.lib.readOnly * 4 + b2n s.lib.scanning * 2 + b2n s.lib.isOpen
  else if o = 4 then s.lib.capacity
  else if o = 8 then s.lib.cacheGib
  else if o = 0xC then s.lib.shareNext.getD s.lib.share
  else if o = 0x10 then s.lib.biTimeout
  else if o = 0x14 then libHosts s
  else if o = 0x18 then s.lib.stageLimit
  else if o = 0x20 then s.lib.dir.length
  else if o = 0x24 then (if s.lib.isOpen then s.lib.catalog.length else 0)
  else if o = 0x28 then s.lib.life
  else if o = 0x2C then s.lib.badBlocks
  else if o = 0x30 then s.lib.hostDeaths
  else if o = 0x34 then s.lib.writesRefused
  else if o = 0x38 then s.lib.recs.length * 0x100 + (s.lib.recs.filter recRunning).length
  else 0

def pwrReg (s : State) (o : Nat) : Nat :=
  if o = 0 then s.pwr.cap
  else if o = 4 then s.pwr.policy.baseW
  else if o = 8 then s.pwr.policy.linkIdle * 0x10000 + s.pwr.policy.linkMin
  else if o = 0xC then s.pwr.domains.toNat
  else if o = 0x10 then s.pwr.budget
  else if o = 0x14 then s.pwr.eBase
  else if o = 0x18 then s.pwr.eLast
  else if o = 0x1C then thermal s
  else if o = 0x20 then s.pwr.deferrals
  else 0

/-- The steward's registers: 0 until its firmware sets them (R342). -/
def stwReg (s : State) (o : Nat) : Nat :=
  if s.boot.phase ≠ .firmware then 0
  else if o = 0 then fwStateReg s
  else if o = 4 then fwVersion (fwHeaderOf s s.boot.slot)
  else if o = 8 then fwSvn (fwHeaderOf s s.boot.slot)
  else if o = 0xC then s.fuse.svnBlown
  else if o = 0x10 then slotVersion s 0
  else if o = 0x14 then slotVersion s 1
  else if o = 0x18 then s.stw.nextOffset
  else if o = 0x1C then bootrecReg s
  else if o = 0x20 then s.stw.lastCheck
  else 0

def errReg (s : State) (o : Nat) : Nat :=
  if o = 0 then (s.err.nextSeq - 1) % 2 ^ 32
  else if o = 4 then (s.err.logRead - 1) % 2 ^ 32
  else if o = 8 then s.err.log.length
  else if o = 0xC then s.err.logLost
  else if o = 0x10 then faultPend s
  else if o = 0x14 then s.err.pmLost * 0x100 + b2n s.err.pmUnread
  else if o = 0x18 then s.err.hbmCe
  else if o = 0x1C then s.err.hbmUe
  else if o = 0x20 then s.err.poolCe
  else if o = 0x24 then s.err.poolUe
  else if o = 0x28 then s.err.flashCe
  else if o = 0x2C then s.err.flashUe
  else if o = 0x30 then s.err.poison
  else if o = 0x48 then b2n s.err.unlocked
  else 0

def dbgReg (s : State) (o : Nat) : Nat :=
  if !s.err.unlocked then 0
  else if o = 0 then b2n (holdReads s) * 2 + 1
  else if o = 8 then s.dbg.poolAddr
  else if o = 0x18 then dbgTag s
  else 0

/-- A 32-bit register of the PF map, by window (Table 18-1). A reserved offset reads zero (R341). -/
def reg32 (s : State) (off : Nat) : Nat :=
  let o := off % 0x10000
  let w := off / 0x10000
  if w = 0 then idReg s o
  else if w = 1 then fnReg s 0 o
  else if w = 2 then tenReg s o
  else if w = 3 then tickReg s o
  else if w = 4 then coreReg s o
  else if w = 5 then knotReg s o
  else if w = 6 then sapReg s o
  else if w = 7 then linkReg s o
  else if w = 8 then timeReg s o
  else if w = 9 then libReg s o
  else if w = 0xA then pwrReg s o
  else if w = 0xB then stwReg s o
  else if w = 0xC then errReg s o
  else if w = 0xF then dbgReg s o
  else 0

/-! ### Reading any offset -/

/-- The 64-bit register whose low word is at an offset of a function's BAR0: the PF's, or VF n's. -/
def wide (s : State) (fn off : Nat) : Option Nat :=
  if fn = 0 then
    if 0x10000 ≤ off && off < 0x20000 then fnReg64 s 0 (off - 0x10000) else reg64 s off
  else fnReg64 s fn off

/-- A CXL component register of an LD (Table 4-2; log 18). -/
def componentReg (s : State) (ld off : Nat) : Nat := Config.componentReg ld off (s.host.decoders.toNat.testBit ld) % 2 ^ 32

/-- BAR0 of LD1 to LD15: the CXL component registers, with read-only copies of ID.STRAP and ID.BOOT (Table 4-2). -/
def ldReg (s : State) (ld off : Nat) : Nat :=
  if off = 0x8020 then idReg s 0x20 % 2 ^ 32 else if off = 0x8024 then idReg s 0x24 % 2 ^ 32 else componentReg s ld off

/-- MSI-X vectors of a function (Table 4-1), and where the PBA lies in its BAR2/3 (Table 4-2). -/
def vectorCount (fn : Nat) : Nat := if fn = 0 then 2048 else 8
def pbaOffset (fn : Nat) : Nat := if fn = 0 then 0x8000 else 0x800

/-- A word of a function's MSI-X table or PBA: 16-byte entries of address, upper address, data and mask bit, and one pending bit a vector (PCIe 6.0; log 82). -/
def msixReg (s : State) (n off : Nat) : Nat :=
  let f := fnOf s n
  let v := off / 16
  let e := tabGet { address := 0, data := 0 } f.msix v
  if v < vectorCount n then
    if off % 16 = 0 then e.address % 2 ^ 32 else if off % 16 = 4 then e.address / 2 ^ 32 % 2 ^ 32
    else if off % 16 = 8 then e.data % 2 ^ 32 else b2n (!f.unmasked.contains v)
  else if pbaOffset n ≤ off && 8 * (off - pbaOffset n) < vectorCount n then
    (List.range 32).foldr (fun i a => a * 2 + b2n (f.pendingVecs.contains (8 * (off - pbaOffset n) + i))) 0
  else 0

/-- The live value of the 32-bit register at an offset of a BAR0 (R341, R342, R346). -/
def barReg (s : State) (fn off : Nat) : Nat :=
  match wide s fn off with
  | some v => v % 2 ^ 32
  | none =>
    match (if 4 ≤ off then wide s fn (off - 4) else none) with
    | some v => v / 2 ^ 32 % 2 ^ 32
    | none => if fn = 0 then reg32 s off % 2 ^ 32 else if ldFn fn then ldReg s (fn - 256) off else fnReg s fn off % 2 ^ 32

/-- The live value of the register at an offset of a window. JTAG reaches the DBG block alone (R47), the service port ID.BOOT alone (03, "Boot path"). -/
def readReg (s : State) (w off : Nat) : Nat :=
  if w = jtagFn then (if 0xF0000 ≤ off then barReg s 0 off else 0)
  else if w = serviceFn then (if off = 0x24 then idBoot s else 0)
  else if w = componentBar then componentReg s 0 off
  else if isMsixBar w then msixReg s (w - 1024) off
  else barReg s w off

/-! ### Which offsets are registers -/

/-- Ranges of 4-byte registers in each window of the PF map: first and last offset (Table 18-2). -/
def regRanges : List (Nat × Nat) :=
  [(0x0, 0x4), (0x20, 0x24), (0x20000, 0x20064), (0x20100, 0x20120), (0x20200, 0x20200), (0x30000, 0x30000)] ++
  [(0x30008, 0x3001C), (0x40000, 0x40000), (0x40008, 0x4001C), (0x40100, 0x4011C), (0x40200, 0x4023C)] ++
  [(0x50000, 0x500BC), (0x50100, 0x50108), (0x60000, 0x60008), (0x60010, 0x60028), (0x70000, 0x70004)] ++
  [(0x80000, 0x80018), (0x90000, 0x90018), (0x90020, 0x90038), (0x90040, 0x9004C), (0xA0000, 0xA0020)] ++
  [(0xA0028, 0xA002C), (0xB0000, 0xB0020), (0xC0000, 0xC0030), (0xC0040, 0xC0048), (0xF0000, 0xF0000)] ++
  [(0xF0008, 0xF0008), (0xF0010, 0xF0018)]

/-- Whether an offset of a function's BAR0 names a register. -/
def regKnown (fn off : Nat) : Bool :=
  off % 4 = 0 &&
  (if fn = 0 then
    regRanges.any (fun r => decide (r.1 ≤ off) && decide (off ≤ r.2)) ||
    (decide (0x10000 ≤ off) && fnRegKnown 0 (off - 0x10000)) ||
    (decide (0x70100 ≤ off) && decide (off < 0x70300) && decide (off % 0x40 ≤ 0x2C))
  else fnRegKnown fn off)

/-! ### Pins the chip drives (Table 2-7) -/

/-- MAIN_EN (R30, Table 2-7). -/
def pinMainEn (s : State) : Bool := s.pin.aonRstN && s.pin.mainEn

/-- The sensor warning of R43. -/
def sensorWarning (s : State) : Bool := decide (100 ≤ s.pin.tj) || decide (90 ≤ s.pin.thbm)

/-- ALERT_N asserted: a sensor at its warning, or a fault record that waits (R43, R325). -/
def alertAsserted (s : State) : Bool := serviceUp s && (sensorWarning s || !s.err.unread.isEmpty)

/-- THERMTRIP_N asserted (R44). -/
def thermtripAsserted (s : State) : Bool := s.pin.thermtrip

/-- Power state: whether the always-on rails, and the main rails, are up (R33). -/
def standby (s : State) : Bool := s.pin.aonRails && s.boot.dom == .off

/-- The outputs of Table 2-7. -/
inductive OutputPin where
  | peTx
  | tlTx (port : Nat)
  | nfCeWe
  | nfWp
  | nfData
  | spiCs
  | spiRst
  | spiClkIo
  | mainEn
  | thermtripN
  | alertN
  | svcSda
  | tdo
  deriving DecidableEq, Repr

/-- What an output drives: a state of Table 2-7, or `inUse` where its block runs and no rule here fixes the level. -/
inductive PinDrive where
  | highZ
  | idle
  | high
  | low
  | released
  | inUse
  deriving DecidableEq, Repr

/-- A bit driven. -/
def drive (b : Bool) : PinDrive := if b then .high else .low

/-- An open-drain output that is active low. -/
def openDrain (asserted : Bool) : PinDrive := if asserted then .low else .released

/-- A main output: high impedance while off or in standby, its reset level while its block is in reset, in use else. -/
def mainDrive (s : State) (standbyLevel resetLevel : PinDrive) (inReset : Bool) : PinDrive :=
  if !s.pin.aonRails then .highZ else if s.boot.dom == .off then standbyLevel
  else if s.boot.dom != .on || inReset then resetLevel else .inUse

/-- The level of every output (R33, R48, Table 2-7). Between two commands the steward reads no boot flash and no JTAG shift is under way. -/
def outputDrive (s : State) : OutputPin → PinDrive
  | .peTx => mainDrive s .idle .idle (!s.pin.perstN || s.boot.phase == .recovery)
  | .tlTx p => mainDrive s .idle .idle (let x := portOf s p; x.st == .dark)
  | .nfCeWe => mainDrive s .highZ .high false
  | .nfWp => mainDrive s .highZ .low false
  | .nfData => mainDrive s .highZ .low false
  | .spiCs => if s.pin.aonRails then .high else .highZ
  | .spiRst => if s.pin.aonRails then drive s.pin.aonRstN else .highZ
  | .spiClkIo => if s.pin.aonRails then .low else .highZ
  | .mainEn => if s.pin.aonRails then drive (pinMainEn s) else .highZ
  | .thermtripN => openDrain (s.pin.aonRails && thermtripAsserted s)
  | .alertN => openDrain (s.pin.aonRails && alertAsserted s)
  | .svcSda => if s.pin.aonRails && s.pin.aonRstN then .inUse else .highZ
  | .tdo => .highZ

end Sys2Proof.Machine
end

