-- ==== Sys2Proof/Machine/Flit.lean ====
section
/-! DEFINITION. Units of Trelhal as bytes: head and tail flits (Tables 12-2, 12-3), message bodies (Tables 12-5, 13-2),
and the checks of R234. -/

namespace Sys2Proof.Machine

/-- The fields of a head flit (Table 12-2). `body` is bytes 24 to 215. -/
structure Head where
  typ : Nat
  msg : Nat
  dst : Nat
  hop : Bool
  src : Nat
  noid : Bool
  seq : Nat
  tag : Nat
  replay : Bool
  tick : Nat
  plan : Nat
  body : List Byte
  credit : Nat
  deriving DecidableEq, Repr

/-- A list of bytes cut or zero-padded to n. -/
def padTo (n : Nat) (bs : List Byte) : List Byte := bytesAt bs 0 n

/-- Bytes 0 to 251 of a head flit. -/
def headBody (h : Head) : List Byte :=
  leBytes 1 h.typ ++ leBytes 1 h.msg ++ leBytes 2 (h.dst % 2048 + b2n h.hop * 0x8000) ++
    leBytes 2 (h.src % 2048 + b2n h.noid * 0x8000) ++ leBytes 2 (h.seq % 4096) ++
    leBytes 1 (h.tag % 64 + b2n h.replay * 64) ++ [0] ++ leBytes 6 h.tick ++ leBytes 8 h.plan ++ padTo 192 h.body ++
    leBytes 2 (h.credit % 1024) ++ List.replicate 34 0

/-- A head flit with its HCRC. -/
def encodeHead (h : Head) : List Byte := headBody h ++ leBytes 4 (crc32c (headBody h))

/-- The fields of 256 bytes as a head flit. -/
def decodeHead (b : List Byte) : Head :=
  { typ := leAt b 0 1, msg := leAt b 1 1, dst := leAt b 2 2 % 2048, hop := bitAt (leAt b 2 2) 15
    src := leAt b 4 2 % 2048, noid := bitAt (leAt b 4 2) 15, seq := leAt b 6 2 % 4096, tag := leAt b 8 1 % 64
    replay := bitAt (leAt b 8 1) 6, tick := leAt b 10 6, plan := leAt b 16 8, body := bytesAt b 24 192
    credit := leAt b 216 2 % 1024 }

def chunkType : Nat := 0x5A
def messageType : Nat := 0xC3

/-- Reserved bits of a head flit. -/
def headReservedOk (b : List Byte) : Bool :=
  bitsOf (leAt b 2 2) 14 11 == 0 && bitsOf (leAt b 4 2) 14 11 == 0 && bitsOf (leAt b 6 2) 15 12 == 0 &&
    !bitAt (leAt b 8 1) 7 && leAt b 9 1 == 0 && bitsOf (leAt b 216 2) 15 10 == 0 && zeroAt b 218 34

/-- The message codes of Tables 12-4 and 13-2. -/
def msgKnown (m : Nat) : Bool :=
  [0x01, 0x10, 0x11, 0x12, 0x20, 0x21, 0x22, 0x23, 0x30, 0x31, 0x40, 0x41, 0x42, 0x43, 0x44, 0x45, 0x46, 0x50, 0x51,
    0x52].contains m

/-- Messages that carry a control tag and an LSN (Table 12-4). -/
def msgTagged (m : Nat) : Bool := decide (0x20 ≤ m) && decide (m ≤ 0x31)

/-! ### Message bodies, from byte 24 -/

/-- A field of a message body, by its byte number in the flit. -/
def bodyAt (h : Head) (byte len : Nat) : Nat := leAt h.body (byte - 24) len

/-- Every body byte from `byte` on is zero (reserved). -/
def bodyZeroFrom (h : Head) (byte : Nat) : Bool := zeroAt h.body (byte - 24) (216 - byte)

/-- An AMOUNT as a remote SIGNAL may carry it on a knot's kind (R174, R176, R179). -/
def remoteAmountOk (knot amount : Nat) : Bool :=
  if knot < 32 then decide (1 ≤ amount) && decide (amount ≤ 32767)
  else bitsOf amount 14 12 == 0 && decide (1 ≤ bitsOf amount 11 0)

/-- Values that Table 12-5 or the field's definition excludes (R234). -/
def msgBodyOk (h : Head) : Bool :=
  if h.msg = 0x01 then bodyZeroFrom h 24
  else if h.msg = 0x10 then bitsOf (bodyAt h 24 2) 15 12 == 0 && bodyZeroFrom h 26
  else if h.msg = 0x11 then
    bitsOf (bodyAt h 24 2) 15 12 == 0 && (bodyAt h 26 1 == 1 || bodyAt h 26 1 == 2) && bodyZeroFrom h 27
  else if h.msg = 0x12 then
    bitsOf (bodyAt h 24 2) 15 12 == 0 && decide (1 ≤ bodyAt h 26 2) && bodyZeroFrom h 28
  else if h.msg = 0x20 then
    decide (bodyAt h 24 1 ≤ 47) && bodyAt h 25 1 == 0 && remoteAmountOk (bodyAt h 24 1) (bodyAt h 26 2) &&
      bodyZeroFrom h 28
  else if h.msg = 0x21 then
    bodyAt h 24 8 != 0 && decide (4 ≤ bodyAt h 38 1) && decide (bodyAt h 38 1 ≤ 160) && bodyZeroFrom h 39
  else if h.msg = 0x22 then bodyAt h 24 8 != 0 && bodyZeroFrom h 38
  else if h.msg = 0x23 then decide (1 ≤ bodyAt h 24 1) && decide (bodyAt h 24 1 ≤ 4) && bodyZeroFrom h 26
  else if h.msg = 0x30 then bodyZeroFrom h 28
  else if h.msg = 0x31 then bitsOf (bodyAt h 28 1) 7 2 == 0 && bodyAt h 29 3 == 0 && bodyZeroFrom h 40
  else if h.msg = 0x41 then
    bitsOf (bodyAt h 32 1) 7 3 == 0 && bitsOf (bodyAt h 33 1) 7 4 == 0 && bitsOf (bodyAt h 34 1) 7 7 == 0 &&
      bitsOf (bodyAt h 35 1) 7 3 == 0 && bodyZeroFrom h 38
  else if h.msg = 0x43 || h.msg = 0x44 then
    bitsOf (bodyAt h 24 2) 15 11 == 0 && decide (bodyAt h 26 1 ≤ 7) && bodyZeroFrom h 27
  else if h.msg = 0x46 then
    bitsOf (bodyAt h 24 2) 15 11 == 0 && bitsOf (bodyAt h 26 2) 15 12 == 0 && bodyZeroFrom h 28
  else if h.msg = 0x50 then
    bitsOf (bodyAt h 32 2) 15 11 == 0 && bitsOf (bodyAt h 34 1) 7 1 == 0 && bodyZeroFrom h 35
  else if h.msg = 0x51 then bodyZeroFrom h 40
  else if h.msg = 0x52 then
    bitsOf (bodyAt h 60 2) 15 11 == 0 && decide (bodyAt h 62 1 ≤ 3) && bodyZeroFrom h 63
  else true

/-! ### Chunks (Table 12-3) -/

def chunkModel (h : Head) : Nat := bodyAt h 24 4
def chunkBlock (h : Head) : Nat := bodyAt h 28 4
def chunkIndex (h : Head) : Nat := bodyAt h 32 1 % 16
def chunkLast (h : Head) : Bool := bitAt (bodyAt h 32 1) 7
def chunkLen (h : Head) : Nat := bodyAt h 34 2

/-- Reserved and excluded values of a chunk head's body. -/
def chunkBodyOk (h : Head) : Bool :=
  bitsOf (bodyAt h 32 1) 6 4 == 0 && bodyAt h 33 1 == 0 && decide (1 ≤ chunkLen h) && decide (chunkLen h ≤ 64) &&
    (chunkLast h || chunkLen h == 64) && bodyZeroFrom h 36

/-- A tail flit for a head and payload; poison as given. -/
def tailBody (h : Head) (payload : List Byte) (credit : Nat) : List Byte :=
  [0x96, 0] ++ leBytes 2 (h.dst % 2048 + b2n h.hop * 0x8000) ++ leBytes 2 (h.src % 2048 + b2n h.noid * 0x8000) ++
    leBytes 2 (h.seq % 4096) ++ List.replicate 4 0 ++ leBytes 4 (crc32c payload) ++ List.replicate 200 0 ++
    leBytes 2 (credit % 1024) ++ List.replicate 34 0

def encodeTail (h : Head) (payload : List Byte) (credit : Nat) : List Byte :=
  tailBody h payload credit ++ leBytes 4 (crc32c (tailBody h payload credit))

/-- R234: whether a unit is one that the receiver discards silently, by its head. -/
def headFault (u : RawUnit) : Bool :=
  let h := decodeHead u.head
  leAt u.head 252 4 != crc32c (u.head.take 252) || u.head.length != 256 || !headReservedOk u.head ||
    !(if h.typ = chunkType then h.msg == 0 && chunkBodyOk h
      else h.typ == messageType && msgKnown h.msg && msgBodyOk h)

/-- Damage found beyond the head of a chunk: TCRC, PCRC, POISON or a tail that is no tail (R238). -/
def chunkDamaged (u : RawUnit) : Bool :=
  let h := decodeHead u.head
  leAt u.tail 252 4 != crc32c (u.tail.take 252) || u.tail.length != 256 || leAt u.tail 0 1 != 0x96 ||
    bitAt (leAt u.tail 8 1) 0 || leAt u.tail 12 4 != crc32c (u.payload.take (64 * chunkLen h)) ||
    u.payload.length != 4096

/-- A unit whose head is given: a control message, or a chunk with its payload, padded to 4,096 bytes. -/
def buildUnit (h : Head) (payload : List Byte) : RawUnit :=
  if h.typ = chunkType then
    { head := encodeHead h, payload := padTo 4096 payload, tail := encodeTail h payload 0 }
  else { head := encodeHead h, payload := [], tail := [] }

/-- A unit with its SEQ, TAG, REPLAY and CREDIT set (R237, R239; R236 rewrites CREDIT at every hop). -/
def restamp (u : RawUnit) (seq tag : Nat) (replay : Bool) (credit : Nat) : RawUnit :=
  let h := { decodeHead u.head with seq := seq, tag := tag, replay := replay, credit := credit }
  buildUnit h (u.payload.take (64 * chunkLen h))

/-- The flits of a unit (R232): 1, or 18 of a chunk. -/
def unitFlits (u : RawUnit) : Nat := if leAt u.head 0 1 = chunkType then 18 else 1

def isChunk (u : RawUnit) : Bool := leAt u.head 0 1 == chunkType

end Sys2Proof.Machine
end

