-- ==== Sys2Proof/Machine/Events.lean ====
section
/-! DEFINITION. Ring entries, MSI-X, results, events, the event log, chip-scope faults, the knot dump and the
post-mortem summary (R79 to R87, R188, R325, R330 to R335, R350). -/

namespace Sys2Proof.Machine

/-! ### MSI-X (R86) -/

/-- Whether a vector's message goes out: MSI-X enabled, and neither the function nor the vector masked (R86, log 82). -/
def msixOpen (f : FnState) (v : Nat) : Bool :=
  f.enables.contains .msix && !f.enables.contains .msixFunctionMask && f.unmasked.contains v

/-- The message of a vector, as its table entry gives it. -/
def sendMsix (s : State) (fn v : Nat) : State :=
  let e := tabGet { address := 0, data := 0 } (fnOf s fn).msix v
  emit s (.msix fn v e.address e.data)

/-- A vector raised: sent when unmasked, kept pending when masked. -/
def raiseMsix (s : State) (fn v : Nat) : State :=
  if msixOpen (fnOf s fn) v then sendMsix s fn v
  else modFn s fn (fun f => { f with pendingVecs := insertNat v f.pendingVecs })

/-! ### Ring entries (R79, R84, R87) -/

/-- The PHASE bit of entry i of a ring of N entries (R84). -/
def phaseBit (i n : Nat) : Nat := if i / n % 2 = 0 then 2 ^ 511 else 0

/-- An entry written at the ring's next place. -/
def writeEntry (s : State) (fn r bits : Nat) : State :=
  let x := ringOf s fn r
  emit (setRing s fn r { x with devIdx := x.devIdx + 1 })
    (.entry fn r x.devIdx (entryAddress x x.devIdx) (BitVec.ofNat 512 (bits + phaseBit x.devIdx (ringSize x))))

/-- Table 4-11 without PHASE. -/
def eventBits (s : State) (e : Ev) : Nat :=
  e.cookie * 2 ^ 384 + stampNow s % 2 ^ 64 * 2 ^ 320 + e.detail % 2 ^ 192 * 2 ^ 128 + e.status * 2 ^ 88 +
    e.scope * 2 ^ 80 + e.tenant * 2 ^ 40 + e.stream * 2 ^ 16 + e.code

/-- An event without tenant, stream, cookie or status. -/
def evOf (code scope detail : Nat) : Ev :=
  { code := code, scope := scope, tenant := 0, stream := 0, detail := detail, cookie := 0, status := 0 }

/-! ### The event log (R330 to R332) -/

/-- The current second of log time, and the records written in it (R332). -/
def logSecond (s : State) : Nat := s.time.logNs / 1000000000
def logInSecond (s : State) : Nat := if s.err.second = logSecond s then s.err.inSecond else 0

/-- The steward has written 100,000 records in this second: one that arrives now is lost. -/
def logAtLimit (s : State) : Bool := decide (100000 ≤ logInSecond s)

/-- The record of an event that falls due now. -/
def logRecOf (s : State) (posted fault : Bool) (e : Ev) : LogRec :=
  { seq := s.err.nextSeq, time := s.time.logNs / 1000 % 2 ^ 36, scope := e.scope, code := e.code, tenant := e.tenant
    posted := posted, fault := fault, stream := e.stream, detail := e.detail, tick := stampTick s, returned := false }

/-- A record written, with losses counted. -/
def logPut (s : State) (posted fault : Bool) (e : Ev) : State :=
  if logAtLimit s then
    { s with err := { s.err with logLost := satAdd s.err.logLost 1, lossSince := s.err.lossSince + 1 } }
  else
    let full := decide (4096 ≤ s.err.log.length)
    let lost := full && (s.err.log.take 1).any (fun o => !o.returned)
    { s with err := { s.err with
        log := (if full then s.err.log.drop 1 else s.err.log) ++ [logRecOf s posted fault e]
        nextSeq := s.err.nextSeq + 1
        second := logSecond s
        inSecond := logInSecond s + 1
        logLost := if lost then satAdd s.err.logLost 1 else s.err.logLost
        lossSince := if lost then s.err.lossSince + 1 else s.err.lossSince } }

/-- The bytes of a record (Table 17-5). -/
def logBytes (r : LogRec) : List Byte :=
  let body := leBytes 4 r.seq ++ leBytes 5 r.time ++ leBytes 1 r.scope ++ leBytes 2 r.code ++ leBytes 1 r.tenant ++
    leBytes 1 (b2n r.posted + b2n r.fault * 2) ++ leBytes 2 r.stream ++ leBytes 24 r.detail ++ leBytes 6 r.tick ++
    List.replicate 14 0
  body ++ leBytes 4 (crc32c body)

/-! ### Posting on an event ring (R82, R85) -/

/-- The vector of a function's ring 1 or 2 (Table 4-14). -/
def ringVector (r : Nat) : Nat := r - 1

/-- Whether an event ring takes an ordinary event: live, and two or more entries free. -/
def eventRoom (s : State) (fn : Nat) : Bool :=
  ringLive (ringOf s fn 2) && decide (2 ≤ ringFree (ringOf s fn 2))

/-- An event written on a function's event ring with its vector, or counted as lost (R85, R86). The Bool tells whether it was written. -/
def eventWrite (s : State) (fn : Nat) (e : Ev) : Bool × State :=
  if eventRoom s fn then (true, raiseMsix (writeEntry s fn 2 (eventBits s e)) fn (ringVector 2))
  else (false, modFn s fn (fun f => { f with lostEvents := f.lostEvents + 1 }))

/-- LOG_LOSS with the count since the last one, when records were lost and this second still takes one (R332). -/
def lossWrite (s : State) : State :=
  if s.err.lossSince = 0 || logAtLimit s then s
  else
    let e := evOf 0x0A03 5 s.err.lossSince
    let s := { s with err := { s.err with lossSince := 0 } }
    let p := if ringLive (ringOf s 0 2) then eventWrite s 0 e else (false, s)
    logPut p.2 p.1 false e

/-- EVENTS_LOST written with the count, which starts again from 0, and its vector raised. For T0 it is logged too, and is a record like any other (R332). -/
def writeEventsLost (s : State) (fn : Nat) : State :=
  let e := { evOf 0x0004 0 (fnOf s fn).lostEvents with tenant := fn }
  let s := modFn (writeEntry s fn 2 (eventBits s e)) fn (fun f => { f with lostEvents := 0 })
  let s := raiseMsix s fn (ringVector 2)
  if fn = 0 then lossWrite (logPut s true false e) else s

/-- EVENTS_LOST first, when events were lost and there is room for it. -/
def lostFirst (s : State) (fn : Nat) : State :=
  if decide (0 < (fnOf s fn).lostEvents) && eventRoom s fn then writeEventsLost s fn else s

/-- An ordinary event offered to a function's event ring: written, counted as lost, or discarded (R85). The Bool tells whether it was written. -/
def ringPut (s : State) (fn : Nat) (e : Ev) : Bool × State :=
  if !ringLive (ringOf s fn 2) then (false, s)
  else
    eventWrite (lostFirst s fn) fn e

/-- LOG_LOSS at the first record after a loss (R332). EVENTS_LOST goes before it (R85). -/
def lossFirst (s : State) : State := if s.err.lossSince = 0 || logAtLimit s then s else lossWrite (lostFirst s 0)

/-- A record under a log-only code (Table 17-8). -/
def logOnly (s : State) (e : Ev) : State := logPut (lossFirst s) false false e

/-- An event posted on a function's event ring; T0's are logged (R330). -/
def post (s : State) (fn : Nat) (e : Ev) : State :=
  if fn = 0 then
    let p := ringPut (lossFirst s) 0 e
    logPut p.2 p.1 false e
  else (ringPut s fn e).2

/-- An event on T0's ring of a scope, with its DETAIL. -/
def postT0 (s : State) (code scope detail : Nat) : State := post s 0 (evOf code scope detail)

/-- A NOTE record (Table 17-8): its kind, and the port or LD. -/
def note (s : State) (kind who : Nat) : State := logOnly s (evOf 0x0A13 5 (kind + who * 256))

/-! ### Read tags (04, R89) -/

/-- The 768 tags of 10 bits whose bits [9:8] are not 0b00 (04, PCIe support). -/
def allTags : List Nat := rangeFrom 256 768

/-- The lowest tag that is neither issued nor quarantined. -/
def freeReadTag (h : HostPort) : Option Nat :=
  allTags.find? (fun t => (tabFind h.reads t).isNone && (tabFind h.quarantine t).isNone)

/-- The completion timeout in ns that Device Control 2 sets: 1 ms for 0b0010, 100 µs for every other value (R88). -/
def readTimeoutNs (s : State) : Nat := if s.host.cto = 2 then 1000000 else 100000

/-- The address and length of a read, and whether it sets Relaxed Ordering, which payload reads alone do (R76, R87). -/
def readSpan (s : State) (o : ReadOwner) : Nat × Nat × Bool :=
  match o with
  | .ring fn r => (entryAddress (ringOf s fn r) (ringOf s fn r).devIdx, 64, false)
  | .payload i q =>
    match (streamOf s i).pending.find? (fun x => x.seq == q && x.payload.isNone) with
    | some x => (x.addr, x.len, true)
    | none => (0, 0, true)

/-- A read sent out under a tag. -/
def issueRead (s : State) (t : Nat) (o : ReadOwner) : State :=
  let p := readSpan s o
  emit (setHost s { s.host with reads := tabSet t o s.host.reads }) (.dmaRead t p.1 p.2.1 p.2.2 (readTimeoutNs s))

/-- Tag exhaustion, noted once per tick (NOTE kind 3). -/
def noteExhausted (s : State) : State :=
  if s.host.exhausted then s else note (setHost s { s.host with exhausted := true }) 3 0

/-- A read issued, or left waiting for a tag; exhaustion is noted once per tick (NOTE kind 3). -/
def startRead (s : State) (o : ReadOwner) : State :=
  match freeReadTag s.host with
  | some t => issueRead s t o
  | none => noteExhausted (setHost s { s.host with readWait := s.host.readWait ++ [o] })

/-- The read that waits longest issued, when a tag has come free. -/
def nextRead (s : State) : State :=
  match s.host.readWait, freeReadTag s.host with
  | o :: rest, some t => issueRead (setHost s { s.host with readWait := rest }) t o
  | _, _ => s

/-- Whether a read for an owner is outstanding. -/
def readOut (s : State) (o : ReadOwner) : Bool := s.host.reads.any (fun x => x.2 == o)

/-- The outstanding read of an owner has completed: its tag is free again. -/
def endRead (s : State) (o : ReadOwner) : State :=
  match s.host.reads.find? (fun x => x.2 == o) with
  | some (t, _) => nextRead (setHost s { s.host with reads := tabErase t s.host.reads })
  | none => s

/-- Reads of some owners given up: issued ones end, waiting ones are dropped, and others that wait take the tags that came free. The manual is silent on the tag of such a read; the model frees it at once (log 83). -/
def dropReads (s : State) (p : ReadOwner → Bool) : State :=
  let s := setHost s { s.host with reads := s.host.reads.filter (fun x => !p x.2), readWait := s.host.readWait.filter (fun o => !p o) }
  s.host.readWait.foldl (fun s _ => nextRead s) s

/-- Whether a ring that the host fills may read its next entry: live, covered by the count, nothing in flight, and its last descriptor carried out (R79, R82). -/
def wantFetch (s : State) (fn r : Nat) : Bool :=
  let f := fnOf s fn
  let x := ringIn f r
  mainOn s && !resetDue s && !f.resetting && ringLive x && !x.fetching && decide (x.devIdx < ringCount x) &&
    (if r = 3 then s.admin.isNone && f.adminFetched.isEmpty else f.fetched.isEmpty)

/-- The read of a ring's next entry begins. -/
def startFetch (s : State) (fn r : Nat) : State :=
  if wantFetch s fn r then startRead (setRing s fn r { ringOf s fn r with fetching := true }) (.ring fn r) else s

/-- REG_ACCESS (0x0A11) or REG_VALUE (0x0A12): offset, write, VF. Its scope is the host ring's for a function's registers and the chip's otherwise (R350). -/
def regLog (s : State) (code fn off : Nat) (write : Bool) : State :=
  logOnly s { evOf code 5 (off % 2 ^ 26 + b2n write * 2 ^ 26 + b2n (decide (1 ≤ fn) && decide (fn < 256)) * 2 ^ 27) with tenant := if fn < 256 then fn else 0 }

def regAccess (s : State) (fn off : Nat) (write : Bool) : State := regLog s 0x0A11 fn off write
def regValue (s : State) (fn off : Nat) : State := regLog s 0x0A12 fn off true

/-! ### RING_STOPPED (R80) -/

/-- The RING_STOPPED of a ring and reason. -/
def stopEvent (fn r reason : Nat) : Ev := { evOf 0x0002 0 (r + reason * 256) with tenant := fn }

/-- A ring stopped; its RING_STOPPED posted, or held when the event ring cannot take it. T0's is logged in any case. -/
def stopRing (s : State) (fn r reason : Nat) : State :=
  let s := setRing s fn r { ringOf s fn r with stopped := true }
  if ringLive (ringOf s fn 2) then post s fn (stopEvent fn r reason)
  else
    let s := modFn s fn (fun f => { f with heldStops := tabSet r reason f.heldStops })
    if fn = 0 then logOnly s (stopEvent fn r reason) else s

/-- The held RING_STOPPED entries written first when the event ring is enabled. An EVENTS_LOST goes before them and an ADMIN_DONE that is due after them: the model's order where R80, R82 and R85 each claim the first place (log 84). -/
def flushStops (s : State) (fn : Nat) : State :=
  let held := (fnOf s fn).heldStops
  let s := modFn s fn (fun f => { f with heldStops := [] })
  held.foldl (fun s x => (ringPut s fn (stopEvent fn x.1 x.2)).2) s

/-! ### Results (R81, R85, R109, Table 4-10) -/

/-- Table 4-10 without PHASE, for one (DLEN, DATA) record. -/
def resultBits (r : Result) (more : Bool) (dlen : Nat) (data : List Byte) : Nat :=
  r.tick % 2 ^ 48 * 2 ^ 448 + r.cookie * 2 ^ 384 + leNat (padTo 32 data) * 2 ^ 128 + dlen * 2 ^ 96 + r.status * 2 ^ 88 +
    b2n r.deferred * 2 ^ 81 + b2n more * 2 ^ 80 + r.seq * 2 ^ 32 + r.stream * 2 ^ 16 + r.opcode

/-- The entries of a result, one or more, chained by MORE. -/
def writeRecords (s : State) (r : Result) : List (Nat × List Byte) → State
  | [] => s
  | e :: t => writeRecords (writeEntry s r.fn 1 (resultBits r (!t.isEmpty) e.1 e.2)) r t

/-- The records of a result: one empty record where it carries none. -/
def recordsOf (r : Result) : List (Nat × List Byte) := if r.entries.isEmpty then [(0, [])] else r.entries

/-- A result offered to its function's result ring: written whole, counted as lost, or discarded (R85). The Bool tells whether it was written. -/
def putResult (s : State) (r : Result) : Bool × State :=
  let x := ringOf s r.fn 1
  if !ringLive x then (false, s)
  else if ringFree x < (recordsOf r).length then
    (false, modFn s r.fn (fun f => { f with lostResults := f.lostResults + 1 }))
  else (true, writeRecords s r (recordsOf r))

/-- A result written outside a result-post window; its vector follows (R86). -/
def resultNow (s : State) (r : Result) : State :=
  let p := putResult s r
  if p.1 then raiseMsix p.2 r.fn (ringVector 1) else p.2

/-- RESULTS_LOST posted for a function whose result ring has room again (R85); a failed attempt is not counted. -/
def resultsLost (s : State) (fn : Nat) : State :=
  let f := fnOf s fn
  if decide (0 < f.lostResults) && ringLive (ringOf s fn 1) && decide (0 < ringFree (ringOf s fn 1)) &&
      eventRoom (lostFirst s fn) fn then
    let s := lostFirst (if fn = 0 then lossFirst s else s) fn
    if eventRoom s fn then
      let e := { evOf 0x0003 0 f.lostResults with tenant := fn }
      post (modFn s fn (fun f => { f with lostResults := 0 })) fn e
    else s
  else s

/-! ### ADMIN_DONE (R82) -/

/-- What takes effect at an ADMIN_DONE. A tenant that becomes enabled is held to its new MAX_FRAMES for the rest of the intake, from 0 (R94). -/
def takeEffect (s : State) (e : Option AdminEffect) : State :=
  match e with
  | none => s
  | some (.key slot k) => setKey s slot k
  | some (.tenant t r) =>
    let old := tenOf s t
    let on := r.enabled && !r.disabling
    let s' := setTen s t { old with classes := r.classes, streamQuota := r.streamQuota, aQuota := r.aQuota, enabled := old.enabled || on }
    if on && !old.enabled then
      modFn s' t (fun f => { f with tally := { f.tally with maxFrames := r.maxFrames, frames := 0 } })
    else s'

/-- The ADMIN_DONE that is due written as soon as an ordinary event could be written; the next descriptor may then be read. It is not logged. -/
def adminTry (s : State) : State :=
  match s.admin with
  | some { d := d, work := .finish status detail effect } =>
    let s := lostFirst s 0
    if eventRoom s 0 then
      let e := { evOf 0x0001 0 detail with cookie := fieldOf d 511 448, status := status }
      raiseMsix (startFetch (takeEffect (writeEntry { s with admin := none } 0 2 (eventBits s e)) effect) 0 3) 0 (ringVector 2)
    else s
  | _ => s

/-- An admin descriptor completes with a status and DETAIL. -/
def adminDone (s : State) (d : Desc) (status detail : Nat) : State :=
  adminTry { s with admin := some { d := d, work := .finish status detail none } }

/-- An admin descriptor completes with OK, and an effect of its own at the ADMIN_DONE. -/
def adminDoneWith (s : State) (d : Desc) (e : AdminEffect) : State :=
  adminTry { s with admin := some { d := d, work := .finish 0 0 (some e) } }

/-- An admin descriptor that goes on. -/
def adminWait (s : State) (d : Desc) (w : AdminWork) : State := { s with admin := some { d := d, work := w } }

/-! ### Post-mortem summary and knot dump (R188, R335) -/

/-- The knots that carry a signal held for the next tick: remote ones, and the host's (Table 9-2 FLAGS [1]). -/
def heldFor (s : State) (k : Nat) : Bool :=
  s.knot.heldSignals.any (fun h => h.knot == k && h.tick == nextTick s) ||
    (match s.admin with
     | some { d := _, work := .signalAt kn _ n } => kn == k && n == nextTick s
     | _ => false)

/-- The INIT and LIMIT of a knot in the active plan. -/
def knotDecl (s : State) (k : Nat) : Nat × Nat :=
  match s.core.active with
  | some p => getAt (0, 0) p.knots k
  | none => (0, 0)

/-- The queues that wait on a knot, one bit each. -/
def waiters (s : State) (k : Nat) : Nat :=
  (List.range 8).foldr (fun q a => a * 2 + b2n (match (queueOf s q).knot with
    | some (kn, _) => kn == k
    | none => false)) 0

def knotDumpEntry (s : State) (k : Nat) : List Byte :=
  leBytes 2 (knotOf s k) ++ leBytes 2 (knotDecl s k).1 ++ leBytes 2 (if k < 32 then 0 else (knotDecl s k).2) ++
    leBytes 1 (waiters s k) ++ leBytes 1 (b2n (decide (32 ≤ k)) + b2n (heldFor s k) * 2)

def queueDumpEntry (s : State) (q : Nat) : List Byte :=
  match (queueOf s q).knot with
  | some (k, v) => leBytes 4 (qstat s q) ++ leBytes 1 k ++ [0] ++ leBytes 2 v
  | none => leBytes 4 (qstat s q) ++ [0xFF, 0, 0, 0]

/-- Table 9-2. -/
def knotDump (s : State) (cause kind tick source : Nat) : List Byte :=
  [0x4B, 0x4E, 0x44, 0x50] ++ leBytes 2 1 ++ leBytes 2 s.link.chipId ++ leBytes 8 (tick % 2 ^ 48) ++
    leBytes 8 ((s.core.active.map (·.setId)).getD 0) ++ leBytes 8 s.time.now ++ leBytes 1 cause ++ leBytes 1 kind ++
    leBytes 1 (b2n s.knot.hold) ++ [0] ++ leBytes 2 source ++ List.replicate 26 0 ++
    (List.range 48).flatMap (knotDumpEntry s) ++ (List.range 8).flatMap (queueDumpEntry s)

/-- A dump saved unless an unread one is held, which counts it as lost (R188). -/
def saveDump (s : State) (dump : List Byte) : State :=
  if s.knot.dumpUnread then { s with knot := { s.knot with dumpsLost := satAdd8 s.knot.dumpsLost } }
  else { s with knot := { s.knot with dump := some dump, dumpUnread := true } }

/-- The 32 words of bytes 576 to 703 of the summary (Table 17-7), in its order. -/
def summaryWords (s : State) : List Nat :=
  (List.range 8).map (qstat s) ++ (List.range 16).map (fun i => (hqOf s i).length) ++
    [planState s, portStates s, timeStateReg s, thermal s, s.pwr.domains.toNat, idBoot s, slotsFree s, tickStatus s]

/-- Table 17-7. -/
def summaryBytes (s : State) (scope kind tick : Nat) (dump : List Byte) : List Byte :=
  [0x53, 0x4B, 0x50, 0x4D] ++ leBytes 2 1 ++ leBytes 2 s.link.chipId ++ leBytes 1 scope ++ leBytes 1 kind ++
    leBytes 6 tick ++ leBytes 8 s.time.now ++ leBytes 8 (s.time.logNs / 1000) ++
    leBytes 8 ((s.core.active.map (·.setId)).getD 0) ++ List.replicate 24 0 ++ padTo 512 dump ++
    (summaryWords s).flatMap (leBytes 4) ++ List.replicate 320 0 ++
    padTo 16384 ((s.err.log.drop (s.err.log.length - 256)).flatMap logBytes)

/-- The summary frozen unless an unread one is held, which counts it as lost (R335). The configuration store keeps the header of the newest (R339). -/
def saveSummary (s : State) (scope kind tick : Nat) (dump : List Byte) : State :=
  if s.err.pmUnread then { s with err := { s.err with pmLost := satAdd8 s.err.pmLost } }
  else
    let b := summaryBytes s scope kind tick dump
    { s with err := { s.err with summary := some b, pmUnread := true, storeHeader := b.take 64 } }

/-! ### Chip-scope faults (R325) -/

/-- The kind-specific bits of CHIP_FAULT where no rule gives them: a free value (log 13). -/
def chipDetail (s : State) : Nat × State := drawRandom s (2 ^ 40)

/-- Whether T0's event ring is disabled, so that a CHIP_FAULT is held. -/
def t0RingOff (s : State) : Bool := !(ringOf s 0 2).enable

/-- Steps 1 to 5 of R325 for a kind of Table 17-3 with its kind-specific bits. -/
def chipFaultWith (s : State) (kind kd : Nat) : State :=
  let e := evOf 0x0A01 5 (kind + kd % 2 ^ 40 * 2 ^ 8 + stampTick s % 2 ^ 48 * 2 ^ 48)
  let s := lossFirst s
  let p := if t0RingOff s then (false, { s with err := { s.err with held := tabSet kind e s.err.held } })
           else ringPut s 0 e
  let r := [logRecOf p.2 p.1 true e]
  let s := logPut p.2 p.1 true e
  let dump := if s.core.active.isSome then knotDump s 0 0 (stampTick s) s.link.chipId else []
  let s := saveSummary s 5 kind (stampTick s) dump
  let store := s.err.store ++ r
  let s := { s with err := { s.err with store := store.drop (store.length - 16), unread := s.err.unread ++ r } }
  let s := cfgStore s
  if s.host.linkUp then raiseMsix s 0 2 else s

/-- A chip-scope fault whose kind-specific bits no rule gives. -/
def chipFault (s : State) (kind : Nat) : State :=
  let p := chipDetail s
  chipFaultWith p.2 kind p.1

/-- The held CHIP_FAULT events posted when T0's event ring is enabled (R325). They are in the log already. -/
def flushChipFaults (s : State) : State :=
  let held := s.err.held
  let s := { s with err := { s.err with held := [] } }
  held.foldl (fun s x => (ringPut s 0 x.2).2) s

/-- The held firmware events posted when T0's event ring is enabled (R323). -/
def flushFirmware (s : State) : State :=
  let held := s.stw.held
  let s := { s with stw := { s.stw with held := [] } }
  held.foldl (fun s x => (ringPut s 0 x.2).2) s

/-- A firmware event: posted, or held while T0's event ring is disabled (R323); logged in either case. -/
def postFirmware (s : State) (e : Ev) : State :=
  if t0RingOff s then
    let s := logOnly s e
    { s with stw := { s.stw with held := tabSet e.code e s.stw.held } }
  else post s 0 e

/-- MEM_ERROR (Table 17-8): scope, memory, address in 64-byte units, and the tick of the cause. -/
def memErrorEv (scope memory unit tick : Nat) : Ev :=
  evOf 0x0A02 scope (memory + 16 + unit % 2 ^ 40 * 2 ^ 8 + tick % 2 ^ 48 * 2 ^ 48)

end Sys2Proof.Machine
end

