-- ==== Sys2Proof/Machine/Wire.lean ====
section
/-! DEFINITION. Sending on a Trelhal port: heads, credits, LSNs, tags, replay and acknowledgement (R236 to R241), and
the paths of routed and steward messages. -/

namespace Sys2Proof.Machine

/-! ### Building messages -/

/-- The head of a unit this chip sends (Table 12-2): its ID, tick index and active PLAN_SET_ID. -/
def headFor (s : State) (typ msg dst : Nat) (body : List Byte) : Head :=
  { typ := typ, msg := msg, dst := dst, hop := false, src := s.link.chipId, noid := !s.link.valid, seq := 0, tag := 0
    replay := false, tick := s.tick.index, plan := (s.core.active.map (·.setId)).getD 0, body := body, credit := 0 }

/-- A control message to a chip. -/
def message (s : State) (msg dst : Nat) (body : List Byte) : RawUnit := buildUnit (headFor s messageType msg dst body) []

/-- A control message to the hop partner. -/
def hopMessage (s : State) (msg : Nat) (body : List Byte) : RawUnit :=
  buildUnit { headFor s messageType msg 0 body with hop := true } []

/-! ### Tags, credits, LSNs -/

/-- A unit that has not been transmitted: it waits for credits, and for a tag when `tagWait`. -/
def tagWait : Nat := 64
def tagNone : Nat := 65

/-- The tags held: data tags 0 to 31, control tags 32 to 63 (bit 5 is CTRL). -/
def tagsHeld (us : List OutUnit) : List Nat := (us.filter (fun v => v.tries != 0)).map (·.tag)

/-- The lowest free tag of a set (R239). -/
def freeTag (us : List OutUnit) (chunk : Bool) : Option Nat :=
  (rangeFrom (if chunk then 0 else 32) 32).find? (fun t => !(tagsHeld us).contains t)

/-- A unit queued for a port. -/
def outUnit (peer msg : Nat) (u : RawUnit) (tagged : Bool) (sched : Option Nat) : OutUnit :=
  { peer := peer, lsn := 0, tag := if tagged then tagWait else tagNone, msg := msg, u := u, tries := 0
    again := false, retryWait := false, refused := [], sched := sched }

/-- What a pass over the waiting units of a port has so far: grove time, the port, the units kept, the units sent. -/
structure PumpAcc where
  now : Nat
  port : Port
  kept : List OutUnit
  sent : List RawUnit
  deriving DecidableEq, Repr

/-- Payload bytes of a unit (LINK.P_BYTES_TX, P_BYTES_RX). -/
def payloadBytes (u : RawUnit) : Nat := if isChunk u then 64 * chunkLen (decodeHead u.head) else 0

/-- Units that keep a port from counting as idle: all but KEEPALIVE, ANNOUNCE and the grove-time messages (R301). -/
def busyMsg (msg : Nat) : Bool := msg != 0x01 && (decide (msg < 0x50) || decide (0x60 ≤ msg))

/-- Messages that a port in DRAIN still starts: KEEPALIVE and acknowledgements. Every other new unit leaves from ACTIVE alone (R240, R247, Table 12-6). -/
def drainMsg (msg : Nat) : Bool := msg == 0x01 || (decide (0x10 ≤ msg) && decide (msg ≤ 0x12))

/-- Whether a port starts a new unit of a message code. -/
def portStarts (x : Port) (msg : Nat) : Bool := x.st == .active || (x.st == .drain && drainMsg msg)

/-- A unit with grove time written as its head flit leaves: TIME of ANNOUNCE, T1 of SYNC_REQ, T3 of SYNC_RESP (R262, Table 13-2). -/
def stampTime (now msg : Nat) (u : RawUnit) : RawUnit :=
  let put := fun (i : Nat) =>
    let h := decodeHead u.head
    buildUnit { h with body := h.body.take i ++ leBytes 8 now ++ h.body.drop (i + 8) } []
  if msg = 0x50 || msg = 0x51 then put 0 else if msg = 0x52 then put 16 else u

/-- One waiting unit: sent if credits and a tag allow and the state carries it, and kept otherwise. A replay keeps its LSN and tag (R239). -/
def pumpOne (a : PumpAcc) (v : OutUnit) (all : List OutUnit) : PumpAcc :=
  let x := a.port
  if (v.tries ≠ 0 && !v.again) || x.txCredit < unitFlits v.u then { a with kept := a.kept ++ [v] }
  else
    let credit := min x.owed 1023
    let spent := { x with txCredit := x.txCredit - unitFlits v.u, owed := x.owed - credit
                          bytesTx := wrapAdd64 x.bytesTx (payloadBytes v.u), carried := x.carried || busyMsg v.msg }
    if v.again then
      { a with port := { spent with replays := satAdd spent.replays 1 }, kept := a.kept ++ [{ v with again := false }]
               sent := a.sent ++ [restamp v.u v.lsn v.tag true credit] }
    else if !portStarts x v.msg then { a with kept := a.kept ++ [v] }
    else if v.tag = tagNone then
      { a with port := spent, sent := a.sent ++ [restamp (stampTime a.now v.msg v.u) 0 0 false credit] }
    else
      match freeTag (a.kept ++ all) (isChunk v.u) with
      | none => { a with kept := a.kept ++ [v] }
      | some g =>
        let lsn := tabGet 0 x.lsnTx v.peer
        let u := restamp v.u lsn g false credit
        { a with port := { spent with lsnTx := tabSet v.peer ((lsn + 1) % 4096) x.lsnTx }
                 kept := a.kept ++ [{ v with lsn := lsn, tag := g, u := u, tries := 1 }]
                 sent := a.sent ++ [u] }

def pumpList (a : PumpAcc) : List OutUnit → PumpAcc
  | [] => a
  | v :: t => pumpList (pumpOne a v t) t

/-- The waiting units of a port sent as far as credits and tags allow (R236, R237, R239). Transmitted units stay first, in the order of their transmission. -/
def pump (s : State) (p : Nat) : State :=
  let x := portOf s p
  if x.st ≠ .active && x.st ≠ .drain then s
  else
    let a := pumpList { now := s.time.now, port := x, kept := [], sent := [] } x.units
    let units := a.kept.filter (·.tries != 0) ++ a.kept.filter (·.tries == 0)
    a.sent.foldl (fun s u => emit s (.unit p u)) (setPort s p { a.port with units := units })

/-- A unit queued on a port, and the port pumped. -/
def sendUnit (s : State) (p peer : Nat) (u : RawUnit) (tagged : Bool) (sched : Option Nat) : State :=
  pump (modPort s p (fun x => { x with units := x.units ++ [outUnit peer (leAt u.head 1 1) u tagged sched] })) p

/-- A unit sent at once: HELLO, which alone lies outside flow control (R236), and PORT_OFF as its port goes dark. -/
def sendFree (s : State) (p : Nat) (u : RawUnit) : State :=
  let credit := min (portOf s p).owed 1023
  emit (modPort s p (fun x => { x with owed := x.owed - credit, carried := x.carried || busyMsg (leAt u.head 1 1) }))
    (.unit p (restamp u 0 0 false credit))

/-- A message to the hop partner under flow control: ID_CONFIRM, KEEPALIVE, ANNOUNCE. -/
def sendHop (s : State) (p msg : Nat) (body : List Byte) : State := sendUnit s p 0 (hopMessage s msg body) false none

/-- An untagged routed message on a port. -/
def sendPlain (s : State) (p dst msg : Nat) (body : List Byte) : State :=
  sendUnit s p dst (message s msg dst body) false none

/-- A tagged message on a port. -/
def sendTagged (s : State) (p dst msg : Nat) (body : List Byte) : State :=
  sendUnit s p dst (message s msg dst body) true none

/-- A steward message (R241): on the lowest ACTIVE port; none where there is no such port. -/
def sendSteward (s : State) (dst msg : Nat) (body : List Byte) : State :=
  match activePorts s with
  | p :: _ => sendTagged s p dst msg body
  | [] => s

/-- A steward message to each of a list of chips. -/
def sendEach (s : State) (dsts : List Nat) (msg : Nat) (body : List Byte) : State :=
  dsts.foldl (fun s d => sendSteward s d msg body) s

/-- The other members of every ring of a plan, each once. -/
def partners (s : State) (p : Plan) : List Nat :=
  ((p.rings.flatMap (·.members)).filter (· != s.link.chipId)).eraseDups

/-! ### Acknowledgement and replay -/

/-- Distance from a to b in LSNs. -/
def lsnAhead (a b : Nat) : Nat := (b + 4096 - a % 4096) % 4096

/-- Units to a peer that have been transmitted. -/
def unackedTo (x : Port) (peer : Nat) : List OutUnit := x.units.filter (fun v => v.peer == peer && v.tries != 0)

/-- Whether a transmitted unit to a peer is acknowledged by a cumulative ACK of an LSN (R238). -/
def ackCovers (peer lsn : Nat) (v : OutUnit) : Bool :=
  v.peer == peer && v.tries != 0 && decide (lsnAhead v.lsn lsn < 2048)

/-- Whether a replay from an LSN on covers a unit (R239). -/
def replayCovers (peer lsn : Nat) (v : OutUnit) : Bool :=
  v.peer == peer && v.tries != 0 && decide (lsnAhead lsn v.lsn < 2048)

/-- Every unacknowledged unit to a peer from an LSN on to be sent again with REPLAY = 1, as credits allow (R236, R239). `counts`: it counts toward the four transmissions. -/
def replayFrom (s : State) (p peer lsn : Nat) (counts : Bool) : State :=
  let x := portOf s p
  let again := x.units.filter (replayCovers peer lsn)
  let units := x.units.map (fun v =>
    if replayCovers peer lsn v then { v with tries := if counts then v.tries + 1 else v.tries, again := true, retryWait := false } else v)
  let s := setPort s p { x with units := units }
  pump { s with sap := { s.sap with replays := setAt s.sap.replays p (getAt 0 s.sap.replays p + b2n (!again.isEmpty)) } } p

/-- Whether a port can take part in routed traffic: ACTIVE or DRAIN. -/
def carries (s : State) (p : Nat) : Bool := (portOf s p).st == .active || (portOf s p).st == .drain

/-- Credits returned to the hop partner for flits taken from the receive buffer (R236). -/
def returnCredit (s : State) (p flits : Nat) : State := modPort s p (fun x => { x with owed := x.owed + flits })

end Sys2Proof.Machine
end

