-- ==== Sys2Proof/Machine/Ops.lean ====
section
/-! DEFINITION. The shared operations of the core: halting and faults of plan and ring scope (R150, R183, R184, R188,
R249, R267, R327), knots (R174 to R177, R181), buffer slots (R99, R133), handle queues (R135), and the effects of a
finished instruction (R129). -/

namespace Sys2Proof.Machine

/-! ### Halting -/

/-- Chunks that wait for their SAPIN.LAND are discarded and counted, port by port, and their credits returned (R223). -/
def discardWaiting (s : State) : State :=
  let s' := s.sap.waiting.foldl (fun s c =>
    returnCredit { s with sap := { s.sap with discards := setAt s.sap.discards c.port (getAt 0 s.sap.discards c.port + 1) } }
      c.port 18) s
  { s' with sap := { s'.sap with waiting := [] } }

/-- Every queue halts at once: state 6, nothing in flight (R150). `reason` is the REASON of the RING_STOP that the next boundary sends, 0 for none. -/
def haltQueues (s : State) (reason : Nat) : State :=
  { s with core := { s.core with
      halted := true
      haltedBefore := false
      stopReason := if s.core.halted then s.core.stopReason else reason
      lead := []
      queues := s.core.queues.map (fun q => { q with st := .halted, ended := q.ended || queueDone q, flights := [] }) } }

/-- What follows a halt: no result of the tick is posted, held signals are discarded, a host signal that waits completes with KNOT_NO_PLAN, waiting chunks are discarded (R150, R179, R180, R223). -/
def settleHalt (s : State) : State :=
  let s := { s with str := { s.str with work := s.str.work.map (fun w => { w with posted := none }) }
                    knot := { s.knot with heldSignals := [] } }
  let s := discardWaiting s
  match s.admin with
  | some { d := d, work := .signalAt _ _ _ } => adminDone s d 0xC0 0
  | _ => s

/-- A fault of plan (3) or ring (4) scope: halt, dump, summary, event (R150, R188, R324, R335). -/
def raiseFault (s : State) (scope reason cause kind tick source : Nat) (e : Ev) : State :=
  let s := haltQueues s reason
  let dump := knotDump s cause kind tick source
  let s := saveSummary (saveDump s dump) scope (e.code % 256) tick dump
  post (settleHalt s) 0 e

/-- A fault of plan scope on this chip in a tick (R150). -/
def planFault (s : State) (cause kind tick : Nat) (e : Ev) : State :=
  raiseFault s 3 2 cause kind tick s.link.chipId e

/-- PLAN_FAULT (Tables 7-17, 7-19): kind, queue, instruction index, tick. -/
def coreFaultAt (s : State) (kind q i tick : Nat) : State :=
  planFault s 4 kind tick (evOf 0x0303 3 (kind + q * 2 ^ 8 + i % 2 ^ 24 * 2 ^ 16 + tick % 2 ^ 48 * 2 ^ 40))

/-- PLAN_FAULT of the instruction at the head of a queue. -/
def coreFault (s : State) (kind q : Nat) : State := coreFaultAt s kind q (queueOf s q).head s.tick.index

/-- KNOT_FAULT (Table 9-5) in a tick. -/
def knotFault (s : State) (kind k source tick : Nat) : State :=
  planFault s 3 kind tick (evOf 0x0381 3 (kind + k * 2 ^ 8 + source * 2 ^ 16 + tick % 2 ^ 48 * 2 ^ 64))

/-- SAP_FAULT (Table 11-7): kind, port, schedule entry or handle, block, in a tick. -/
def sapFault (s : State) (kind port entry block tick : Nat) : State :=
  let s := if kind = 1 then { s with sap := { s.sap with late := satAdd s.sap.late 1 } } else s
  planFault s 6 kind tick (evOf 0x0401 3 (kind + port * 2 ^ 8 + entry % 2 ^ 16 * 2 ^ 16 + block % 2 ^ 32 * 2 ^ 32 +
    tick % 2 ^ 48 * 2 ^ 64))

/-- CODEC_FAULT with BLOCK_CHECK's check code (R209, Table 11-7). -/
def blockFault (s : State) (check model block : Nat) : State :=
  let s := { s with sap := { s.sap with checkFail := satAdd s.sap.checkFail 1, lastCheck := check } }
  planFault s 5 check s.tick.index (evOf 0x0402 3 (check + model % 2 ^ 12 * 2 ^ 8 + block % 2 ^ 32 * 2 ^ 32 +
    s.tick.index % 2 ^ 48 * 2 ^ 64))

/-- MEM_POISON (R327): memory 1 HBM or 2 pool, and the 64-byte unit consumed. -/
def memPoison (s : State) (memory unit : Nat) : State :=
  let s := { s with err := { s.err with poison := satAdd s.err.poison 1 } }
  planFault s 7 memory s.tick.index (memErrorEv 3 memory unit s.tick.index)

/-- The members of the active plan's rings other than this chip. -/
def ringPartners (s : State) : List Nat :=
  match s.core.active with
  | some p => partners s p
  | none => []

/-- A queue that has not executed END: no queue has while lead loads run (R226). -/
def queueOpen (s : State) (q : Nat) : Bool := !s.core.lead.isEmpty || !queueDone (queueOf s q)

/-- The queues not ended, one bit each (Tables 9-5, 12-5): one that executed END before the halt has ended (R184; log 54). -/
def notEnded (s : State) : Nat :=
  (List.range 8).foldr (fun q a => a * 2 + b2n (queueOpen s q && !(queueOf s q).ended)) 0

/-- Every queue has executed END (R130). -/
def allEnded (s : State) : Bool := (List.range 8).all (fun q => !queueOpen s q)

/-- RING_STOP to every member of every ring of the plan. -/
def sendRingStop (s : State) (reason bitmap : Nat) : State :=
  sendEach s (ringPartners s) 0x23 (leBytes 1 reason ++ leBytes 1 bitmap)

/-- Ports that a plan uses: those its schedule entries or remote SIGNALs name (R240, R249). -/
def signalPort (w : Insn) : Option Nat :=
  if fieldOf w 7 0 = 2 && bitAt w.toNat 22 then some (fieldOf w 26 24) else none

def planPorts (p : Plan) : List Nat := p.sched.map (·.port) ++ p.queues.flatten.filterMap signalPort

/-- LINK_FAULT (R249): only while a plan is active. -/
def linkFault (s : State) (cause port peer : Nat) : State :=
  if s.core.active.isNone then s
  else raiseFault s 4 3 8 cause s.tick.index s.link.chipId
    (evOf 0x0505 4 (cause + port * 2 ^ 8 + peer % 2 ^ 11 * 2 ^ 16 + s.tick.index % 2 ^ 48 * 2 ^ 48))

/-- The members of its plan that a TIME_FAULT stops: of the active plan, or of the plan that is merely armed (R264, R267). -/
def timePartners (s : State) : List Nat :=
  match s.core.active, s.core.standby with
  | some p, _ => partners s p
  | none, some p => if s.core.armed then partners s p else []
  | none, none => []

/-- TIME_FAULT (R267): RING_STOP with REASON 4 at once. -/
def timeFault (s : State) (cause : Nat) : State :=
  let bitmap := notEnded s
  let s := raiseFault s 4 0 9 cause s.tick.index s.link.chipId
    (evOf 0x0604 4 (cause + s.tick.index % 2 ^ 48 * 2 ^ 48))
  sendEach s (timePartners s) 0x23 (leBytes 1 4 ++ leBytes 1 bitmap)

/-- PLAN_SPLIT (R149). Table 9-2 has no CAUSE for it: the dump's CAUSE is a free value (log 14). -/
def planSplit (s : State) (chip setId : Nat) : State :=
  let p := drawRandom s 256
  raiseFault p.2 4 2 p.1 0 s.tick.index s.link.chipId (evOf 0x0305 4 (chip % 2 ^ 11 + setId % 2 ^ 64 * 2 ^ 48))

/-! ### Knots -/

/-- The LIMIT of a knot in the active plan: 0 for an unused credit knot. -/
def knotLimit (s : State) (k : Nat) : Nat := (knotDecl s k).2

/-- A queue goes on past its head. -/
def advanceQueue (s : State) (q : Nat) : State :=
  let x := queueOf s q
  setQueue s q { x with head := x.head + 1, st := .running, knot := none }

/-- Whether a WAIT with an operand is met by a value (R175, R176). -/
def waitMet (k e value : Nat) : Bool :=
  if k < 32 then decide ((e + 65536 - value % 65536) % 65536 < 32768) else decide (value % 4096 ≤ e)

/-- A met WAIT completes: a credit WAIT subtracts its count. -/
def takeWait (s : State) (k value : Nat) : State := if k < 32 then s else setKnot s k (knotOf s k - value % 4096)

/-- One queue that waits on a knot, woken if the knot meets it (R181). -/
def wakeQueue (k : Nat) (s : State) (q : Nat) : State :=
  let x := queueOf s q
  match x.knot with
  | some (kn, value) =>
    if x.st = .waitKnot && kn = k && waitMet k (knotOf s k) value then advanceQueue (takeWait s k value) q else s
  | none => s

/-- Every queue that waits on a knot, in ascending queue number (R177). -/
def wake (s : State) (k : Nat) : State := (List.range 8).foldl (wakeQueue k) s

/-- n added to a knot by a source (R174, R176); sources as in Table 9-5. -/
def addKnot (s : State) (k n source : Nat) : State :=
  if k < 32 then wake (setKnot s k ((knotOf s k + n) % 65536)) k
  else if knotLimit s k < knotOf s k + n then knotFault s 1 k source s.tick.index
  else wake (setKnot s k (knotOf s k + n)) k

/-- n taken from a credit knot without waiting (R176). -/
def takeKnot (s : State) (k n source : Nat) : State :=
  if knotOf s k < n then knotFault s 2 k source s.tick.index else wake (setKnot s k (knotOf s k - n)) k

/-- A SIGNAL's AMOUNT applied, coded by the knot's kind (R174, R176). -/
def applyAmount (s : State) (k amount source : Nat) : State :=
  if k < 32 then addKnot s k amount source
  else if bitAt amount 15 then takeKnot s k (amount % 4096) source
  else addKnot s k (amount % 4096) source

/-- Whether a host signal would leave its range (R180 step 4): an unused credit knot, overflow or underflow. -/
def hostSignalBad (s : State) (k amount : Nat) : Bool :=
  decide (32 ≤ k) && (knotLimit s k == 0 ||
    (if bitAt amount 15 then decide (knotOf s k < amount % 4096)
     else decide (knotLimit s k < knotOf s k + amount % 4096)))

/-- A done-knot or early signal adds 1 (R174, R176); 63 is none. -/
def doneKnot (s : State) (q : Nat) (k : Option Nat) : State :=
  match k with
  | some k => addKnot s k 1 q
  | none => s

/-! ### Buffer slots (R99, R133) -/

/-- A slot's contents written under a tag, with the scrub of R99 when the tag changes. -/
def fillSlot (s : State) (h : Nat) (tag : Option Nat) (bytes : List Byte) : State :=
  let s := if (slotOf s h).tag = tag then s else slotZero s h
  let s := poolWrite s (slotBase h) bytes
  setSlot s h { slotOf s h with tag := tag }

/-- The count a written slot takes: its pushes, or 1 (R133). -/
def slotCount (pushes : List (Option Nat)) : Nat := max 1 (pushes.filter (·.isSome)).length

/-- A release: the count lowered, or the fault SLOT_FREE of instruction i. -/
def releaseSlot (s : State) (q i h : Nat) : State :=
  let x := slotOf s h
  if x.count = 0 then coreFaultAt s 5 q i s.tick.index
  else setSlot s h { x with count := x.count - 1, carry := x.carry && decide (2 ≤ x.count) }

/-- A handle pushed into a queue, or HQ_OVERFLOW of instruction i (R135). -/
def pushHandle (s : State) (q i hq h : Nat) : State :=
  if 256 ≤ (hqOf s hq).length then coreFaultAt s 1 q i s.tick.index else setHq s hq (hqOf s hq ++ [h])

/-- Steps applied one after another until one halts the core. -/
def whileRunning {α : Type} (f : State → α → State) (s : State) (l : List α) : State :=
  l.foldl (fun s x => if s.core.halted then s else f s x) s

/-- The effects of a finished instruction: pushes, releases, done knot (R129). -/
def retire (s : State) (q : Nat) (fl : Flight) : State :=
  let s := whileRunning (fun s x => pushHandle s q fl.index x.1 x.2) s fl.pushes
  let s := whileRunning (fun s h => releaseSlot s q fl.index h) s fl.releases
  if s.core.halted then s else doneKnot s q fl.knot

/-- A FENCE at the head completes once nothing of its queue is in flight (R131). -/
def endFence (s : State) (q : Nat) : State :=
  let x := queueOf s q
  if x.st = .fencing && x.flights.isEmpty then advanceQueue s q else s

/-- The oldest instruction in flight retires if it has finished. -/
def retireHead (s : State) (q : Nat) : State :=
  let x := queueOf s q
  match x.flights with
  | fl :: t => if fl.finished then endFence (retire (setQueue s q { x with flights := t }) q fl) q else s
  | [] => s

/-- The finished instructions at the front of a queue retire in order, as many as n. -/
def retireMany (s : State) (q : Nat) : Nat → State
  | 0 => s
  | n + 1 => retireMany (retireHead s q) q n

/-- SAPIN and SAPOUT finish by what the links bring: every finished instruction retires (Table 7-1: at most 32). -/
def retireAll (s : State) (q : Nat) : State := retireMany s q 32

/-! ### Time within a tick -/

/-- Grove time of boundary k (R107). -/
def boundaryNs (s : State) (k : Nat) : Nat := k * periodNs s

/-- Grove time of an offset after the current boundary. -/
def offsetNs (s : State) (off : Nat) : Nat := boundaryNs s s.tick.index + off

end Sys2Proof.Machine
end

