-- ==== Sys2Proof/Machine/Operands.lean ====
section
/-! DEFINITION. The operand forms of the core's instructions (Tables 7-2 to 7-9): fields, handle operands, push fields,
done knots, gates, tiles, and how an instruction issues, is skipped or starts (R129, R133, R136 to R139). -/

namespace Sys2Proof.Machine

/-! ### Fields -/

def opcodeOf (w : Insn) : Nat := fieldOf w 7 0
def gateOf (w : Insn) : Nat := fieldOf w 10 8

/-- A push field: the handle queue it names, if any (bit 4). -/
def pushField (w : Insn) (lo : Nat) : Option Nat :=
  if bitAt w.toNat (lo + 4) then some (fieldOf w (lo + 3) lo) else none

/-- A done-knot field: 63 is none. -/
def knotField (w : Insn) (lo : Nat) : Option Nat :=
  if fieldOf w (lo + 5) lo = 63 then none else some (fieldOf w (lo + 5) lo)

/-- Where each opcode keeps its done knot (Tables 7-5 to 7-8). -/
def doneKnotLo (op : Nat) : Option Nat :=
  match op with
  | 0x10 => some 36
  | 0x11 => some 90
  | 0x12 => some 90
  | 0x13 => some 104
  | 0x14 => some 74
  | 0x20 => some 59
  | 0x30 => some 44
  | 0x31 => some 44
  | 0x40 => some 92
  | 0x41 => some 92
  | 0x50 => some 99
  | 0x60 => some 97
  | 0x70 => some 120
  | 0x80 => some 69
  | 0x81 => some 60
  | 0x82 => some 64
  | _ => none

def doneKnotOf (w : Insn) : Option Nat :=
  match doneKnotLo (opcodeOf w) with
  | some lo => knotField w lo
  | none => none

/-- Where each instruction keeps its handle operand, 11 bits, and its REL bit. COMBINE's lie in its S1 field (Table 8-1). -/
def handleLo (w : Insn) : Option (Nat × Option Nat) :=
  match opcodeOf w with
  | 0x04 => some (16, none)
  | 0x14 => some (16, some 27)
  | 0x30 => some (32, some 43)
  | 0x31 => some (32, some 43)
  | 0x40 => some (60, some 71)
  | 0x41 => some (60, some 71)
  | 0x50 => some (24, some 23)
  | 0x60 => some (22, some 21)
  | 0x70 => if fieldOf w 23 16 = 1 then some (44, some 55) else none
  | _ => none

/-- Where each opcode names a tile: MODEL and TILE, 12 bits each. -/
def tileLo (op : Nat) : Option (Nat × Nat) :=
  match op with
  | 0x11 => some (16, 28)
  | 0x12 => some (16, 28)
  | 0x50 => some (75, 87)
  | 0x60 => some (73, 85)
  | 0x70 => some (96, 108)
  | 0x80 => some (16, 28)
  | 0x81 => some (16, 28)
  | _ => none

/-- The push fields of each opcode that take effect at completion, by their low bits. SAPIN.LAND's PA is handled by its landing. -/
def pushLos (op : Nat) : List Nat :=
  match op with
  | 0x10 => [26, 31]
  | 0x14 => [38]
  | 0x20 => [42, 48]
  | 0x40 => [82, 87]
  | 0x41 => [82, 87]
  | _ => []

def pushesOf (w : Insn) : List (Option Nat) := (pushLos (opcodeOf w)).map (pushField w)

/-! ### Tiles (R136, R137) -/

/-- The occupied columns of a tile of a model entry. -/
def tileColumns (s : State) (model tile : Nat) : List WorkFrame :=
  s.str.work.filter (fun x => x.modelIdx == model && x.tile == tile)

/-- The tile an instruction names, if any: none for VECTOR with MODEL 0xFFF. -/
def namedTile (w : Insn) : Option (Nat × Nat) :=
  match tileLo (opcodeOf w) with
  | some (m, t) => if fieldOf w (m + 11) m = 0xFFF then none else some (fieldOf w (m + 11) m, fieldOf w (t + 11) t)
  | none => none

/-- An instruction that names an empty tile. -/
def emptyTile (s : State) (w : Insn) : Bool :=
  match namedTile w with
  | some (m, t) => (tileColumns s m t).isEmpty
  | none => false

/-! ### Gates (R138) -/

def gateOpen (s : State) (g : Nat) : Bool :=
  g == 0 || (decide (1 ≤ g) && decide (g ≤ 4) && bitAt s.tick.admitted.toNat (g - 1)) || (g == 5 && s.tick.fixed)

/-- An instruction that is skipped: its gate is closed, or its tile is empty. -/
def skipped (s : State) (w : Insn) : Bool := !gateOpen s (gateOf w) || emptyTile s w

/-! ### Issuing (R129, R130) -/

/-- The in-flight limit of a queue (Table 7-1). -/
def inFlight (q : Nat) : Nat := if q ≤ 2 then 32 else if q = 7 then 16 else 1

/-- The instruction at the head of a queue in the plan that runs. -/
def headInsn (s : State) (q : Nat) : Option Insn :=
  match runningPlan s with
  | some p => (getAt [] p.queues q)[(queueOf s q).head]?
  | none => none

/-- A common instruction other than RELEASE: its queue carries it out, so that it takes no room in the engine (R131; log 53). -/
def takesNoRoom (w : Insn) : Bool := decide (opcodeOf w < 0x10) && opcodeOf w != 0x04

/-- The word is the head of a queue that may issue now (log 5). -/
def mayIssue (s : State) (q : Nat) (w : Insn) : Bool :=
  s.core.lead.isEmpty && (queueOf s q).st == .running && headInsn s q == some w &&
    (takesNoRoom w || decide ((queueOf s q).flights.length < inFlight q))

/-- The first poisoned unit among byte ranges (address, length). -/
def poisonedUnit (units : List Nat) (ranges : List (Nat × Nat)) : Option Nat :=
  units.find? (unitIn ranges)

/-- Where the active plan buffer holds instruction i of queue q (Tables 7-11, 7-12). -/
def insnAddr (s : State) (q i : Nat) : Nat :=
  planBase (b2n s.core.activeBuf) + leNat (poolBytes s (planBase (b2n s.core.activeBuf) + 64 + 8 * q) 4) + 16 * i

/-- The poisoned unit of the plan buffer that the fetch of an instruction meets, if any (R328). -/
def fetchPoison (s : State) (q i : Nat) : Option Nat := poisonedUnit s.mem.poolPoison [(insnAddr s q i, 16)]

/-- The body of an instruction, when its word may issue; nothing happens otherwise. The fetch of a poisoned instruction is MEM_POISON (R328). -/
def issue (s : State) (q : Nat) (w : Insn) (ops : List Nat) (body : State → State) : State :=
  if mayIssue s q w && ops.contains (opcodeOf w) then
    let s := readPool s [(insnAddr s q (queueOf s q).head, 16)]
    match fetchPoison s q (queueOf s q).head with
    | some u => memPoison s 2 u
    | none => body s
  else s

/-- The head of a queue goes on with an instruction in flight. -/
def start (s : State) (q : Nat) (fl : Flight) : State :=
  let x := queueOf s q
  setQueue s q { x with head := x.head + 1, flights := x.flights ++ [fl] }

/-! ### Handle operands (R133, R135) -/

/-- The handle an operand of 11 bits gives: named, or popped. `none`: the pop found an empty queue and the core has halted. -/
def takeHandle (s : State) (q operand : Nat) : Option Nat × State :=
  if bitAt operand 10 then
    let hq := operand % 16
    match hqOf s hq with
    | h :: t => (some h, setHq s hq t)
    | [] => (none, coreFault s 2 q)
  else (some (operand % 1024), s)

/-- The slots of the group that a handle operand names: two of T-mode, 16 of B1 for LATTICE.MUL (R142), else one. -/
def groupOf (w : Insn) (h : Nat) : List Nat :=
  if opcodeOf w = 0x50 then (if fieldOf w 18 16 = 0 then rangeFrom h 16 else rangeFrom h 2) else [h]

/-- The slots released by REL. -/
def relSlots (w : Insn) (h : Nat) : List Nat :=
  match handleLo w with
  | some (_, some r) => if bitAt w.toNat r then groupOf w h else []
  | _ => []

/-- An instruction in flight with nothing to send or land. -/
def flightOf (s : State) (q : Nat) (w : Insn) (pushed : Option Nat) (rel : List Nat) (finished : Bool) : Flight :=
  { index := (queueOf s q).head
    pushes := match pushed with
      | some h => (pushesOf w).filterMap (fun p => p.map (fun hq => (hq, h)))
      | none => []
    releases := rel, knot := doneKnotOf w, finished := finished, work := .plain }

/-- A skipped instruction pops its handle operand, performs its REL and signals its done knot (R139). -/
def skip (s : State) (q : Nat) (w : Insn) : State :=
  match handleLo w with
  | some (lo, _) =>
    match takeHandle s q (fieldOf w (lo + 10) lo) with
    | (some h, s) => retireAll (start s q (flightOf s q w none (relSlots w h) true)) q
    | (none, s) => s
  | none => retireAll (start s q (flightOf s q w none [] true)) q

/-- A skipped common instruction does nothing. -/
def skipCommon (s : State) (q : Nat) : State := advanceQueue s q

/-- An instruction that reads no slot: skipped, or its body. -/
def unlessSkipped (s : State) (q : Nat) (w : Insn) (body : State → State) : State :=
  if skipped s w then skip s q w else body s

/-- A slot read: its handle taken, and SLOT_FREE when it is free (R133). The body gets the handle. -/
def withHandle (s : State) (q : Nat) (w : Insn) (lo : Nat) (body : Nat → State → State) : State :=
  match takeHandle s q (fieldOf w (lo + 10) lo) with
  | (none, s) => s
  | (some h, s') =>
    if (groupOf w h).any (fun x => (slotOf s' x).count == 0) then coreFault s' 5 q else body h s'

/-- A slot about to be written must have count 0, or SLOT_BUSY (R133). -/
def withFree (s : State) (q h : Nat) (body : State → State) : State :=
  if (slotOf s h).count ≠ 0 then coreFault s 4 q else body s

/-- A slot written by an instruction: contents, tag and count (R99, R133). -/
def writeSlot (s : State) (w : Insn) (h : Nat) (tag : Option Nat) (bytes : List Byte) (carry : Bool) : State :=
  let s := fillSlot s h tag bytes
  setSlot s h { slotOf s h with count := slotCount (pushesOf w), carry := carry }

/-! ### Poison (R327) -/

/-- Poison marks of a source range carried to a destination range of the same length; both are whole units. -/
def carryPoison (from_ to_ : List Nat) (src dst n : Nat) : List Nat :=
  to_.filter (fun u => decide (u * 64 < dst) || decide (dst + n ≤ u * 64)) ++
    (from_.filter (fun u => decide (src ≤ u * 64) && decide (u * 64 < src + n))).map (fun u => u - src / 64 + dst / 64)

/-! ### State buffers (R115, R123) -/

/-- The first model entry of a plan for a model ID, with its index (R115). -/
def entryFor (p : Plan) (modelId : Nat) : Option (ModelEntry × Nat) :=
  p.models.zipIdx.find? (fun e => e.1.modelId == modelId)

/-- A stream's state buffer filled from an initial-state image in HBM. -/
def fillState (s : State) (x : Stream) (init : Nat) : State :=
  let s := readHbm s [(init, x.stateLen)]
  let s := hbmToHbm s init x.stateAddr x.stateLen
  { s with mem := { s.mem with hbmPoison := carryPoison s.mem.hbmPoison s.mem.hbmPoison init x.stateAddr x.stateLen } }

/-- INIT_ADDR of a model entry of the active plan. -/
def initAddrOf (s : State) (modelIdx : Nat) : Nat :=
  match s.core.active with
  | some p => ((p.models[modelIdx]?).map (·.initAddr)).getD 0
  | none => 0

/-- Whether a frame's refill is due before column c: an EOU frame of its stream in an earlier tile (R123). -/
def refillBefore (c w : WorkFrame) : Bool :=
  w.stream == c.stream && w.frame.eou && !w.refilled && decide (w.tile < c.tile)

/-- The refill due before a column's state is read or written. -/
def refillFor (s : State) (c : WorkFrame) : State :=
  if s.str.work.any (refillBefore c) then
    let s := fillState s (streamOf s c.stream) (initAddrOf s c.modelIdx)
    { s with str := { s.str with work := s.str.work.map (fun w => if refillBefore c w then { w with refilled := true } else w) } }
  else s

/-- Pool ranges consumed by an engine: MEM_POISON when one holds a poisoned unit. -/
def consume (s : State) (ranges : List (Nat × Nat)) (body : State → State) : State :=
  let s := readPool s ranges
  match poisonedUnit s.mem.poolPoison ranges with
  | some u => memPoison s 2 u
  | none => body s

end Sys2Proof.Machine
end

