-- ==== Sys2Proof/Machine/Common.lean ====
section
/-! DEFINITION. The common instructions and the end of an engine's work (Table 7-4; R129 to R133, R139, R174 to R179). -/

namespace Sys2Proof.Machine

/-- A common instruction: issued on the queue that holds it, skipped by its gate, or its body. -/
def common (s : State) (q : Nat) (w : Insn) (op : Nat) (body : State → State) : State :=
  issue s q w [op] (fun s => if gateOpen s (gateOf w) then body s else skipCommon s q)

/-- The head goes on unless the core has halted. -/
def goOn (s : State) (q : Nat) : State := if s.core.halted then s else advanceQueue s q

def nopInsn (s : State) (q : Nat) (w : Insn) : State := common s q w 0x00 (fun s => advanceQueue s q)

/-- NOP_INSTRUCTION (R129) -/
def execNopInstruction (q : Nat) (w : Insn) (s : State) : Host.Outcome State Fault Refusal := .next (nopInsn s q w)

/-- FENCE stalls its queue until nothing of it is in flight. An instruction of SAPOUT is in flight until its last chunk is acknowledged, so both scopes end there (R131, Table 7-4). -/
def fenceInsn (s : State) (q : Nat) (w : Insn) : State :=
  common s q w 0x01 (fun s => endFence (setQueue s q { queueOf s q with st := .fencing }) q)

/-- FENCE (R131) -/
def execFence (q : Nat) (w : Insn) (s : State) : Host.Outcome State Fault Refusal := .next (fenceInsn s q w)

/-- KNOT_SIGNAL to a chip through a port (R179, Table 12-5). -/
def sendSignal (s : State) (port chip knot amount : Nat) : State :=
  sendTagged s port chip 0x20 (leBytes 1 knot ++ [0] ++ leBytes 2 amount)

def signalInsn (s : State) (q : Nat) (w : Insn) : State :=
  common s q w 0x02 (fun s =>
    if bitAt w.toNat 22 then goOn (sendSignal s (fieldOf w 26 24) (fieldOf w 38 28) (fieldOf w 21 16) (fieldOf w 55 40)) q
    else goOn (applyAmount s (fieldOf w 21 16) (fieldOf w 55 40) q) q)

/-- SIGNAL (R174, R176, R179) -/
def execSignal (q : Nat) (w : Insn) (s : State) : Host.Outcome State Fault Refusal := .next (signalInsn s q w)

def waitInsn (s : State) (q : Nat) (w : Insn) : State :=
  common s q w 0x03 (fun s =>
    let k := fieldOf w 21 16
    let v := fieldOf w 47 32
    if waitMet k (knotOf s k) v then advanceQueue (takeWait s k v) q
    else setQueue s q { queueOf s q with st := .waitKnot, knot := some (k, v) })

/-- WAIT (R175, R176, R181) -/
def execWait (q : Nat) (w : Insn) (s : State) : Host.Outcome State Fault Refusal := .next (waitInsn s q w)

def releaseInsn (s : State) (q : Nat) (w : Insn) : State :=
  common s q w 0x04 (fun s =>
    match takeHandle s q (fieldOf w 26 16) with
    | (some h, s) => retireAll (start s q (flightOf s q w none [h] true)) q
    | (none, s) => s)

/-- RELEASE (R133) -/
def execRelease (q : Nat) (w : Insn) (s : State) : Host.Outcome State Fault Refusal := .next (releaseInsn s q w)

def waitTimeInsn (s : State) (q : Nat) (w : Insn) : State :=
  common s q w 0x05 (fun s =>
    let t := offsetNs s (fieldOf w 47 16)
    if t ≤ s.time.now then advanceQueue s q else setQueue s q { queueOf s q with st := .waitTime, time := t })

/-- WAIT_TIME (R131) -/
def execWaitTime (q : Nat) (w : Insn) (s : State) : Host.Outcome State Fault Refusal := .next (waitTimeInsn s q w)

/-- Grove time reaches the time that a queue waits for (R131). -/
def waitTimeExpire (s : State) (q : Nat) : State :=
  if (queueOf s q).st == .waitTime && beforeBoundary s (queueOf s q).time then
    advanceQueue (advanceTo s (queueOf s q).time) q
  else s

/-- WAIT_TIME_EXPIRE (R131) -/
def execWaitTimeExpire (q : Nat) (s : State) : Host.Outcome State Fault Refusal := .next (waitTimeExpire s q)

def endInsn (s : State) (q : Nat) (w : Insn) : State :=
  common s q w 0x0F (fun s => setQueue s q { queueOf s q with st := .ended })

/-- END (R130) -/
def execEndQueue (q : Nat) (w : Insn) (s : State) : Host.Outcome State Fault Refusal := .next (endInsn s q w)

/-- The oldest instruction in flight of a queue has finished its work: a landing or a send only once its last chunk has landed or been acknowledged. -/
def finishHead (x : Queue) : Queue :=
  match x.flights with
  | fl :: t => { x with flights := { fl with finished := fl.finished || fl.work == .plain } :: t }
  | [] => x

def workComplete (s : State) (q : Nat) : State :=
  if s.core.halted then s else retireAll (setQueue s q (finishHead (queueOf s q))) q

/-- ENGINE_WORK_COMPLETE (R129): pushes, release and done knot of the oldest instruction in flight, and of those after it that had finished. -/
def execEngineWorkComplete (q : Nat) (s : State) : Host.Outcome State Fault Refusal := .next (workComplete s q)

end Sys2Proof.Machine
end

