-- ==== Sys2Proof/Machine/Float.lean ====
section
/-! DEFINITION. Binary32, BF16 and OFP8 arithmetic of the plinth and VECTOR (08).

A binary32 value is its 32 bits as a number. A finite value is also read as an exact integer in units of 2^-149. -/

namespace Sys2Proof.Machine

/-- The NaN that is written (R164, R165). -/
def fpNan : Nat := 0x7FC00000
def fpInf (neg : Bool) : Nat := if neg then 0xFF800000 else 0x7F800000
def fpZero (neg : Bool) : Nat := if neg then 0x80000000 else 0
def fpOne : Nat := 0x3F800000

def fpNeg (b : Nat) : Bool := b.testBit 31
def fpExp (b : Nat) : Nat := bitsOf b 30 23
def fpFrac (b : Nat) : Nat := b % 2 ^ 23
def fpIsNan (b : Nat) : Bool := decide (fpExp b = 255) && decide (fpFrac b ≠ 0)
def fpIsInf (b : Nat) : Bool := decide (fpExp b = 255) && decide (fpFrac b = 0)
def fpIsZero (b : Nat) : Bool := decide (b % 2 ^ 31 = 0)

/-- The magnitude of a finite value in units of 2^-149. -/
def fpMag (b : Nat) : Nat := if fpExp b = 0 then fpFrac b else (2 ^ 23 + fpFrac b) * 2 ^ (fpExp b - 1)

/-- A finite value in units of 2^-149. -/
def fpInt (b : Nat) : Int := if fpNeg b then - (fpMag b : Int) else fpMag b

/-- n / d rounded to an integer, ties to even. -/
def rneDiv (n d : Nat) : Nat :=
  let q := n / d
  let r := n % d
  if d < 2 * r || (2 * r = d && q % 2 = 1) then q + 1 else q

/-- fp32_rne: n / d units of 2^-149 rounded to the nearest binary32 value, ties to even (R160). -/
def fpRound (neg : Bool) (n d : Nat) : Nat :=
  let q := n / d
  let bits := if q < 2 ^ 24 then rneDiv n d else
    let k := q.log2 - 23
    k * 2 ^ 23 + rneDiv n (d * 2 ^ k)
  (if neg then 2 ^ 31 else 0) + (if bits ≥ 0x7F800000 then 0x7F800000 else bits)

/-- An integer of units 2^-149 / d, rounded; the sign of an exact zero is `zneg`. -/
def fpOfInt (zneg : Bool) (i : Int) (d : Nat) : Nat :=
  if i = 0 then fpZero zneg else fpRound (decide (i < 0)) i.natAbs d

/-- flush (R165): a subnormal becomes zero with its sign kept. -/
def fpFlush (b : Nat) : Nat := if fpExp b = 0 then fpZero (fpNeg b) else b

def fpAdd (a b : Nat) : Nat :=
  if fpIsNan a || fpIsNan b then fpNan
  else if fpIsInf a then (if fpIsInf b && fpNeg a != fpNeg b then fpNan else a)
  else if fpIsInf b then b
  else fpOfInt (fpNeg a && fpNeg b) (fpInt a + fpInt b) 1

def fpNegate (a : Nat) : Nat := if fpNeg a then a - 2 ^ 31 else a + 2 ^ 31

def fpSub (a b : Nat) : Nat := fpAdd a (fpNegate b)

def fpMul (a b : Nat) : Nat :=
  let neg := fpNeg a != fpNeg b
  if fpIsNan a || fpIsNan b then fpNan
  else if fpIsInf a || fpIsInf b then (if fpIsZero a || fpIsZero b then fpNan else fpInf neg)
  else fpOfInt neg (fpInt a * fpInt b) (2 ^ 149)

/-- a × b + c with one rounding (MAC, NORM). -/
def fpFma (a b c : Nat) : Nat :=
  let neg := fpNeg a != fpNeg b
  if fpIsNan a || fpIsNan b || fpIsNan c then fpNan
  else if fpIsInf a || fpIsInf b then
    (if fpIsZero a || fpIsZero b then fpNan
     else if fpIsInf c && fpNeg c != neg then fpNan else fpInf neg)
  else if fpIsInf c then c
  else fpOfInt (neg && fpNeg c) (fpInt a * fpInt b + fpInt c * 2 ^ 149) (2 ^ 149)

def fpDiv (a b : Nat) : Nat :=
  let neg := fpNeg a != fpNeg b
  if fpIsNan a || fpIsNan b then fpNan
  else if fpIsInf a then (if fpIsInf b then fpNan else fpInf neg)
  else if fpIsInf b then fpZero neg
  else if fpIsZero b then (if fpIsZero a then fpNan else fpInf neg)
  else if fpIsZero a then fpZero neg
  else fpRound neg (fpMag a * 2 ^ 149) (fpMag b)

/-- An unsigned integer as binary32. -/
def fpOfNat (n : Nat) : Nat := fpRound false (n * 2 ^ 149) 1

/-- A 32-bit two's-complement sum as binary32 (R160). -/
def fpOfI32 (w : Nat) : Nat :=
  let i : Int := if w < 2 ^ 31 then w else (w : Int) - 2 ^ 32
  fpOfInt false (i * 2 ^ 149) 1

/-- A BF16 value as binary32: its upper half (R162). -/
def bf16ToFp (h : Nat) : Nat := h * 2 ^ 16

/-! ### Ordering (R169): NaN below −∞, +0 and −0 equal -/

def fpRank (b : Nat) : Int :=
  if fpIsNan b then - (2 : Int) ^ 300
  else if fpIsInf b then (if fpNeg b then - (2 : Int) ^ 299 else (2 : Int) ^ 299)
  else fpInt b

/-! ### Transcendental functions within their error bounds (R166) -/

/-- Fixed-point numbers carry 512 fraction bits. -/
def fixOne : Int := 2 ^ 512

/-- e^x for x = i · 2^-149 with |x| ≤ 128, in fixed point. -/
def fixExp (i : Int) : Int :=
  let x : Int := i * 2 ^ 353
  let series := (List.range 70).foldl
    (fun (acc : Int × Int) (k : Nat) =>
      let term := acc.2 * x / (fixOne * (k + 1))
      (acc.1 + term, term)) (fixOne, fixOne)
  (List.range 10).foldl (fun e _ => e * e / fixOne) series.1

/-- 2 · atanh y for y = n / d in [0, 1/3], in fixed point. -/
def fixAtanh2 (n d : Nat) : Int :=
  let y : Int := (n : Int) * fixOne / d
  let y2 := y * y / fixOne
  let r := (List.range 170).foldl
    (fun (acc : Int × Int) (k : Nat) => (acc.1 + acc.2 / (2 * k + 1), acc.2 * y2 / fixOne)) (0, y)
  2 * r.1

/-- ln a for a = m · 2^-149 with m > 0, in fixed point. -/
def fixLog (m : Nat) : Int :=
  let l := m.log2
  fixAtanh2 (m - 2 ^ l) (m + 2 ^ l) + ((l : Int) - 149) * fixAtanh2 1 3

/-- How a function with an error bound is evaluated: with the free choice of the hardware, or exactly, rounded once. -/
inductive FpMode where
  | chosen
  | exact
  deriving DecidableEq, Repr

/-- The binary32 values within `ulps` ulp of the fixed-point value v > 0, and one of them by the free choice (R166, R170). Below a power of two the values lie half an ulp of v apart, so that up to 2 · `ulps` of them are within the bound on that side. Where v rounds to a normal value a subnormal one is no candidate: flushed to zero, it would miss the bound. -/
def fpNear (mode : FpMode) (func a ulps : Nat) (neg : Bool) (v : Nat) : Nat :=
  let c := fpRound false v (2 ^ 363)
  let k := (v / 2 ^ 363).log2 - 23
  let ok := fun y : Nat => decide (y < 0x7F800000) && (fpExp c == 0 || fpExp y != 0) &&
    decide ((fpMag y : Int) * 2 ^ 363 - v ≤ ulps * 2 ^ k * 2 ^ 363) &&
    decide ((v : Int) - fpMag y * 2 ^ 363 ≤ ulps * 2 ^ k * 2 ^ 363)
  let cands := (rangeFrom (c - 2 * ulps) (3 * ulps + 1)).filter ok
  let y := match mode with
    | .chosen => getAt c cands (Config.vecChoice func a % max 1 cands.length)
    | .exact => c
  fpFlush ((if neg then 2 ^ 31 else 0) + y)

/-- An operand with a magnitude beyond `lim` · 2^149 units brought to that bound. -/
def clampInt (i lim : Int) : Int := max (- lim) (min lim i)

def fpExpF (mode : FpMode) (a : Nat) : Nat :=
  if fpIsNan a then fpNan
  else if fpIsInf a then (if fpNeg a then 0 else fpInf false)
  else if !fpNeg a && decide (a ≥ 0x42B17218) then fpInf false
  else fpNear mode 0x13 a 2 false (fixExp (clampInt (fpInt a) (110 * 2 ^ 149))).toNat

def fpSigmoid (mode : FpMode) (a : Nat) : Nat :=
  if fpIsNan a then fpNan
  else if fpIsInf a then (if fpNeg a then 0 else fpOne)
  else
    let e := fixExp (clampInt (- fpInt a) (110 * 2 ^ 149))
    fpNear mode 0x11 a 2 false (fixOne * fixOne / (fixOne + e)).toNat

def fpTanh (mode : FpMode) (a : Nat) : Nat :=
  if fpIsNan a then fpNan
  else if fpIsInf a then (if fpNeg a then fpOne + 2 ^ 31 else fpOne)
  else if fpIsZero a then a
  else
    let e := fixExp (clampInt (2 * (fpMag a : Int)) (110 * 2 ^ 149))
    fpNear mode 0x12 a 2 (fpNeg a) ((e - fixOne) * fixOne / (e + fixOne)).toNat

def fpLog (mode : FpMode) (a : Nat) : Nat :=
  if fpIsNan a then fpNan
  else if fpIsZero a then fpInf true
  else if fpNeg a then fpNan
  else if fpIsInf a then a
  else
    let v := fixLog (fpMag a)
    if v = 0 then 0 else fpNear mode 0x14 a 2 (decide (v < 0)) v.natAbs

def fpRsqrt (mode : FpMode) (a : Nat) : Nat :=
  if fpIsNan a then fpNan
  else if fpIsZero a then fpInf false
  else if fpNeg a then fpNan
  else if fpIsInf a then 0
  else fpNear mode 0x15 a 1 false (rootOf 2 (2 ^ (1024 + 149) / fpMag a) 640)

/-! ### Conversions (R167) -/

def fpToBf16 (b : Nat) : Nat :=
  if fpIsNan b then 0x7FC0 else ((b + 0x7FFF + (b / 2 ^ 16) % 2) / 2 ^ 16) % 2 ^ 16

def fpToE4m3 (b : Nat) : Nat :=
  if fpIsNan b then 0x7F
  else
    let mag := if fpIsInf b then 0x7E else
      let n := fpMag b
      let q := n / 2 ^ 140
      let bits := if q < 16 then rneDiv n (2 ^ 140) else
        let k := q.log2 - 3
        k * 8 + rneDiv n (2 ^ (140 + k))
      min bits 0x7E
    (if fpNeg b then 0x80 else 0) + mag

/-! ### The plinth (R162 to R164) -/

/-- A plinth operand: not a number, infinite, or finite with its magnitude in units of 2^-149. -/
inductive PlinthVal where
  | nan
  | inf (neg : Bool)
  | fin (neg : Bool) (mag : Nat)
  deriving DecidableEq, Repr

def plinthOfFp (b : Nat) : PlinthVal :=
  if fpIsNan b then .nan else if fpIsInf b then .inf (fpNeg b) else .fin (fpNeg b) (fpMag b)

def plinthE4m3 (b : Nat) : PlinthVal :=
  let e := bitsOf b 6 3
  let f := b % 8
  if e = 15 && f = 7 then .nan
  else .fin (b.testBit 7) (if e = 0 then f * 2 ^ 140 else (8 + f) * 2 ^ (e - 1 + 140))

def plinthE5m2 (b : Nat) : PlinthVal :=
  let e := bitsOf b 6 2
  let f := b % 4
  if e = 31 then (if f = 0 then .inf (b.testBit 7) else .nan)
  else .fin (b.testBit 7) (if e = 0 then f * 2 ^ 133 else (4 + f) * 2 ^ (e - 1 + 133))

/-- The exact product of two operands, finite magnitudes in units of 2^-298. -/
def plinthProd : PlinthVal → PlinthVal → PlinthVal
  | .nan, _ => .nan
  | _, .nan => .nan
  | .inf s, .inf t => .inf (s != t)
  | .inf s, .fin t m => if m = 0 then .nan else .inf (s != t)
  | .fin s m, .inf t => if m = 0 then .nan else .inf (s != t)
  | .fin s m, .fin t n => .fin (s != t) (m * n)

def PlinthVal.isInf (neg : Bool) : PlinthVal → Bool
  | .inf s => s == neg
  | _ => false

def PlinthVal.toInt : PlinthVal → Int
  | .fin neg m => if neg then - (m : Int) else m
  | _ => 0

def PlinthVal.isNegZero : PlinthVal → Bool
  | .fin neg m => neg && decide (m = 0)
  | _ => false

/-- fp32_rne of the group sum of the products (R163, R164). -/
def plinthGroup (ps : List PlinthVal) : Nat :=
  let pos := ps.any (·.isInf false)
  let neg := ps.any (·.isInf true)
  if ps.any (· == .nan) || (pos && neg) then fpNan
  else if pos then fpInf false
  else if neg then fpInf true
  else fpOfInt (ps.all (·.isNegZero)) (ps.foldl (fun a p => a + p.toInt) 0) (2 ^ 149)

/-- acc after the groups of 16 products, in order (R163). -/
def plinthAcc (acc : Nat) (ps : List PlinthVal) : Nat :=
  (List.range (ps.length / 16)).foldl (fun a g => fpAdd a (plinthGroup ((ps.drop (16 * g)).take 16))) acc

/-! ### Per-column functions (R167 to R169) -/

/-- The greatest finite magnitude of a column, as binary32 bits (R167). -/
def columnMax (xs : List Nat) : Nat :=
  xs.foldl (fun m x => if fpIsNan x || fpIsInf x then m else max m (x % 2 ^ 31)) 0

/-- The activation scale of a column (R167). -/
def quantScale (xs : List Nat) : Nat :=
  let mx := columnMax xs
  let s := if mx = 0 then 0 else fpFlush (fpRound false (fpMag mx) 127)
  if s = 0 then fpOne else s

/-- One quantised activation as a byte (R167). -/
def quantOne (s x : Nat) : Byte :=
  if fpIsNan x then 0
  else
    let mag := if fpIsInf x then 127 else min 127 (rneDiv (fpMag x) (fpMag s))
    if fpNeg x then BitVec.ofNat 8 (256 - mag) else BitVec.ofNat 8 mag

/-- Subnormal inputs read as zero with their sign (R165). -/
def fpIn (b : Nat) : Nat := fpFlush b

/-- A value's place in the order of binary32 values. -/
def fpOrd (b : Nat) : Int := if fpNeg b then - ((b % 2 ^ 31 : Nat) : Int) else (b % 2 ^ 31 : Nat)

/-- The finite value at a place. -/
def fpAtOrd (i : Int) : Nat := if i < 0 then 2 ^ 31 + min i.natAbs 0x7F7FFFFF else min i.natAbs 0x7F7FFFFF

/-- The value y held within 4 ulp of the reference e (Table 8-2). A value that is within is itself, and so is one beside an infinite or NaN reference. -/
def within4 (e y : Nat) : Nat :=
  if fpIsNan e || fpIsInf e || fpIsNan y || fpIsInf y then y
  else if (fpOrd e - fpOrd y).natAbs ≤ 4 then y
  else fpFlush (fpAtOrd (if fpOrd y < fpOrd e then fpOrd e - 4 else fpOrd e + 4))

/-- SOFTMAX of a column in the order of R168. -/
def softmaxOf (mode : FpMode) (xs : List Nat) : List Nat :=
  let xs := xs.map fpIn
  if xs.any fpIsNan then xs.map (fun _ => fpNan)
  else
    let m := xs.foldl (fun m x => if fpRank m < fpRank x then x else m) (getAt 0 xs 0)
    let us := xs.map (fun x => fpFlush (fpExpF mode (fpFlush (fpSub x m))))
    let z := us.foldl (fun z u => fpFlush (fpAdd z u)) 0
    us.map (fun u => fpFlush (fpDiv u z))

/-- SOFTMAX: the sequence of R168 with the hardware's EXP, held within 4 ulp of the same sequence with EXP exact (R166; log 100). -/
def softmaxColumn (xs : List Nat) : List Nat := List.zipWith within4 (softmaxOf .exact xs) (softmaxOf .chosen xs)

/-- NORM of a column in the order of R168. -/
def normOf (mode : FpMode) (xs gs bs : List Nat) : List Nat :=
  let xs := xs.map fpIn
  let n := fpOfNat xs.length
  let s := xs.foldl (fun s x => fpFlush (fpAdd s x)) 0
  let mu := fpFlush (fpDiv s n)
  let ds := xs.map (fun x => fpFlush (fpSub x mu))
  let w := ds.foldl (fun w d => fpFlush (fpAdd w (fpFlush (fpMul d d)))) 0
  let v := fpFlush (fpDiv w n)
  let q := fpRsqrt mode (fpFlush (fpAdd v 0x35800000))
  List.zipWith (fun d (gb : Nat × Nat) => fpFlush (fpFma (fpFlush (fpMul d q)) (fpIn gb.1) (fpIn gb.2)))
    ds (List.zip gs bs)

/-- NORM, likewise with RSQRT. -/
def normColumn (xs gs bs : List Nat) : List Nat := List.zipWith within4 (normOf .exact xs gs bs) (normOf .chosen xs gs bs)

/-- A (row, value) pair placed among pairs in descending order of value, lower row first among equals (R169). -/
def rankInsert (p : Nat × Nat) : List (Nat × Nat) → List (Nat × Nat)
  | [] => [p]
  | h :: t => if fpRank h.2 ≥ fpRank p.2 then h :: rankInsert p t else p :: h :: t

/-- The rows of a column in rank order, each with its value. -/
def rankColumn (xs : List Nat) : List (Nat × Nat) :=
  (List.zip (List.range xs.length) xs).foldl (fun acc p => rankInsert p acc) []

end Sys2Proof.Machine
end

