-- ==== Sys2Proof/Machine/Engines.lean ====
section
/-! DEFINITION. LOAD, LATTICE, PLINTH, VECTOR and HOSTIO instructions (Tables 7-5, 7-7, 7-8; 08; R137 to R144).

What an engine writes lands when its instruction issues; its pushes, releases and done knot follow at
ENGINE_WORK_COMPLETE (log 4). -/

namespace Sys2Proof.Machine

/-! ### Shared -/

/-- Model entry m of the plan that runs. -/
def modelAt (s : State) (m : Nat) : Option ModelEntry :=
  match runningPlan s with
  | some p => p.models[m]?
  | none => none

/-- The OWNER of the key slot of a model entry. -/
def modelOwner (s : State) (m : Nat) : Option Nat :=
  match modelAt s m with
  | some e => (keyOf s e.keySlot).map (·.owner)
  | none => none

/-- TAG_MISMATCH (R100, R140, R161): the slot's tag and the tenant it should be. A NONE tag has no number of its own in the event: a free value (log 15). -/
def tagMismatch (s : State) (h : Nat) (tag : Option Nat) (tenant : Nat) : State :=
  let p := match tag with
    | some t => (t, s)
    | none => drawRandom s 256
  planFault p.2 4 6 s.tick.index (evOf 0x0203 3 (h % 1024 + p.1 % 256 * 2 ^ 16 + tenant % 256 * 2 ^ 24))

/-- The first slot of a group and column of a tile whose tag and tenant differ (R100). -/
def tagClash (s : State) (slots : List Nat) (cols : List WorkFrame) : Option (Nat × Nat) :=
  slots.findSome? (fun h => (cols.find? (fun c => (slotOf s h).tag != some c.tenant)).map (fun c => (h, c.tenant)))

/-- The body, when every slot's tag is every column's tenant. -/
def tagged (s : State) (slots : List Nat) (cols : List WorkFrame) (body : State → State) : State :=
  match tagClash s slots cols with
  | some (h, t) => tagMismatch s h (slotOf s h).tag t
  | none => body s

/-- A list cut into pieces of k, n of them. -/
def cut {α : Type} (k : Nat) : Nat → List α → List (List α)
  | 0, _ => []
  | n + 1, l => l.take k :: cut k n (l.drop k)

/-- n little-endian words of k bytes. -/
def wordsOf (k n : Nat) (bs : List Byte) : List Nat := (cut k n bs).map leNat

/-- n words of 4 bytes of the pool. -/
def poolWords (s : State) (a n : Nat) : List Nat := wordsOf 4 n (poolBytes s a (4 * n))

/-- The rows of 64 columns of n words at an address. -/
def poolRows (s : State) (a n : Nat) : List (List Nat) := cut 64 n (poolWords s a (64 * n))

/-- Words as bytes, 4 each. -/
def bytesOfWords (ws : List Nat) : List Byte := ws.flatMap (leBytes 4)

/-- A value per column: that of an occupied column, 0 elsewhere (R137). -/
def byColumn (occ : List Nat) (f : Nat → Nat) : List Nat :=
  (List.range 64).map (fun c => if occ.contains c then f c else 0)

/-- Byte ranges of the elements of some columns in n rows of 64 words at an address. -/
def elementRanges (a n : Nat) (occ : List Nat) : List (Nat × Nat) :=
  (List.range n).flatMap (fun r => occ.map (fun c => (a + 256 * r + 4 * c, 4)))

/-! ### LOAD -/

/-- The carry load of R225: no push, no done knot. -/
def isCarryLoad (w : Insn) : Bool :=
  opcodeOf w == 0x10 && (pushField w 26).isNone && (pushField w 31).isNone && (doneKnotOf w).isNone

/-- The HBM range of a LOAD.BLOCK. -/
def blockSrc (w : Insn) : Nat × Nat := (64 * fieldOf w 79 48, 64 * fieldOf w 90 80)

/-- The tag that a LOAD.BLOCK gives its slot (Table 7-5). -/
def blockTag (s : State) (w : Insn) : Option Nat :=
  if fieldOf w 103 92 = 0xFFF then none else modelOwner s (fieldOf w 103 92)

/-- What a LOAD.BLOCK writes: DST takes the bytes, their poison marks, its tag and its count (R99, R133, R140). A plan's LOAD and COPY move the bytes of HBM as they stand: the stream table, the directory and the cache pages, which Table 14-1 also places in HBM, are kept apart from them, so that such a read of their ranges meets none of their contents: the model's choice (log 99). -/
def loadInto (s : State) (w : Insn) : State :=
  let h := fieldOf w 25 16
  let src := (blockSrc w).1
  let n := (blockSrc w).2
  let s := writeSlot (readHbm s [blockSrc w]) w h (blockTag s w) [] (isCarryLoad w)
  let s := hbmToPool s src (slotBase h) n
  { s with mem := { s.mem with poolPoison := carryPoison s.mem.hbmPoison s.mem.poolPoison src (slotBase h) n } }

/-- Ranges of n from a on and of m from b on that share a number. -/
def rangesMeet (a n b m : Nat) : Bool := decide (a < b + m) && decide (b < a + n)

/-- Byte ranges (address, length) that share a byte. -/
def spanMeets (x y : Nat × Nat) : Bool := rangesMeet x.1 x.2 y.1 y.2

/-- The state buffer of a stream that holds one. -/
def stateRange (x : Stream) : Nat × Nat := (x.stateAddr, x.stateLen)

/-- The ranges of a graft's plain state: the state and its two copies (R128). -/
def graftRanges (g : GraftEntry) : List (Nat × Nat) := [(g.stateAddr, g.stateLen), (g.copy0, g.stateLen), (g.copy1, g.stateLen)]

/-- The tenant whose stream's state a range of HBM meets, if any (R14). -/
def streamMet (s : State) (r : Nat × Nat) : Option Nat :=
  (s.str.table.find? (fun x => holdsId x.2 && spanMeets r (stateRange x.2))).map (·.2.tenant)

/-- The owner of a graft of the plan that runs whose plain state a range meets under another tag (R20, R140). -/
def graftMet (s : State) (r : Nat × Nat) (tag : Option Nat) : Option Nat :=
  match runningPlan s with
  | none => none
  | some p => p.grafts.findSome? (fun g => match modelOwner s g.model with
    | some t => if (graftRanges g).any (spanMeets r) && tag != some t then some t else none
    | none => none)

/-- The tenant whose plain state a LOAD.BLOCK would bring into a slot where it may not stand: stream state never does, graft state only under its owner's tag (R14, R20; log 97). -/
def plainClash (s : State) (w : Insn) : Option Nat :=
  (streamMet s (blockSrc w)).orElse (fun _ => graftMet s (blockSrc w) (blockTag s w))

/-- A LOAD.BLOCK's own checks, then its body: SLOT_BUSY (R133), then TAG_MISMATCH where plain state would enter the slot. -/
def loadChecked (s : State) (i : Nat) (w : Insn) (body : State → State) : State :=
  if (slotOf s (fieldOf w 25 16)).count ≠ 0 then coreFaultAt s 4 0 i s.tick.index
  else match plainClash s w with
    | some t => tagMismatch s (fieldOf w 25 16) (blockTag s w) t
    | none => body s

def loadBlockInsn (s : State) (w : Insn) : State :=
  issue s 0 w [0x10] (fun s => unlessSkipped s 0 w (fun s =>
    loadChecked s (queueOf s 0).head w (fun s =>
      start (loadInto s w) 0 (flightOf s 0 w (some (fieldOf w 25 16)) [] false))))

/-- Whether a LOAD would run now and reads or writes beyond HBM: the address that does not exist (Table 14-1). -/
def beyondHbm (s : State) (w : Insn) (ranges : List (Nat × Nat)) : Option Nat :=
  if mayIssue s 0 w && !skipped s w then (ranges.find? (fun r => decide (hbmEnd < r.1 + r.2))).map (·.1) else none

/-- LOAD_BLOCK (R140) -/
def execLoadBlock (w : Insn) (s : State) : Host.Outcome State Fault Refusal :=
  match beyondHbm s w [blockSrc w] with
  | some a => .fault (.hbmRange a)
  | none => .next (loadBlockInsn s w)

/-- The work-area and HBM ranges of a column of LOAD.STAGE or LOAD.SPILL: (work area, HBM, bytes). -/
def stageRange (s : State) (w : Insn) (c : WorkFrame) : Nat × Nat × Nat :=
  let n := 64 * fieldOf w 89 78
  (workBase (fieldOf w 59 40) + c.column * n, (streamOf s c.stream).stateAddr + 64 * fieldOf w 77 60, n)

/-- A column that breaks SOFF + CLEN ≤ STATE_LEN / 64. -/
def stageBeyond (s : State) (w : Insn) (c : WorkFrame) : Bool :=
  decide ((streamOf s c.stream).stateLen / 64 < fieldOf w 77 60 + fieldOf w 89 78)

def stageColumn (w : Insn) (s : State) (c : WorkFrame) : State :=
  let r := stageRange s w c
  let s := readHbm s [r.2]
  let s := hbmToPool s r.2.1 r.1 r.2.2
  { s with mem := { s.mem with poolPoison := carryPoison s.mem.hbmPoison s.mem.poolPoison r.2.1 r.1 r.2.2 } }

def spillColumn (w : Insn) (s : State) (c : WorkFrame) : State :=
  let r := stageRange s w c
  let s := readPool s [(r.1, r.2.2)]
  let s := poolToHbm s r.1 r.2.1 r.2.2
  { s with mem := { s.mem with hbmPoison := carryPoison s.mem.poolPoison s.mem.hbmPoison r.1 r.2.1 r.2.2 } }

/-- The columns of a tile-wide LOAD: STATE_RANGE checked first, refills that EOU frames call for, then each column moved in turn (R123). -/
def moveState (s : State) (w : Insn) (zero : State → State) (move : State → WorkFrame → State) : State :=
  let cols := tileColumns s (fieldOf w 27 16) (fieldOf w 39 28)
  if cols.any (stageBeyond s w) then coreFault s 9 0
  else start (cols.foldl move (zero (cols.foldl refillFor s))) 0 (flightOf s 0 w none [] false)

/-- The work area of all 64 columns zeroed, so that an unoccupied column reads zero (R137). -/
def zeroTile (wa n : Nat) (s : State) : State :=
  { s with mem := { s.mem with pool := memClear s.mem.pool (workBase wa) (64 * n)
                               poolPoison := notReplaced s.mem.poolPoison (workBase wa) (64 * n)
                               poolBad := notReplaced s.mem.poolBad (workBase wa) (64 * n) } }

def loadStageInsn (s : State) (w : Insn) : State :=
  issue s 0 w [0x11] (fun s => unlessSkipped s 0 w (fun s =>
    moveState s w (zeroTile (fieldOf w 59 40) (64 * fieldOf w 89 78)) (stageColumn w)))

def loadSpillInsn (s : State) (w : Insn) : State :=
  issue s 0 w [0x12] (fun s => unlessSkipped s 0 w (fun s => moveState s w id (spillColumn w)))

/-- The HBM ranges of the columns of a LOAD.STAGE or LOAD.SPILL that keep within STATE_LEN. -/
def stageRanges (s : State) (w : Insn) : List (Nat × Nat) :=
  let cols := tileColumns s (fieldOf w 27 16) (fieldOf w 39 28)
  if cols.any (stageBeyond s w) then [] else cols.map (fun c => (stageRange s w c).2)

/-- LOAD_STAGE (Table 7-5) -/
def execLoadStage (w : Insn) (s : State) : Host.Outcome State Fault Refusal :=
  match beyondHbm s w (stageRanges s w) with
  | some a => .fault (.hbmRange a)
  | none => .next (loadStageInsn s w)

/-- LOAD_SPILL (Table 7-5) -/
def execLoadSpill (w : Insn) (s : State) : Host.Outcome State Fault Refusal :=
  match beyondHbm s w (stageRanges s w) with
  | some a => .fault (.hbmRange a)
  | none => .next (loadSpillInsn s w)

/-- The ranges of a LOAD.COPY: source and destination, (address, bytes) each. -/
def copyRanges (w : Insn) : List (Nat × Nat) :=
  [(64 * fieldOf w 47 16, 64 * fieldOf w 103 80), (64 * fieldOf w 79 48, 64 * fieldOf w 103 80)]

/-- A range of HBM copied, with its poison marks (R327). -/
def hbmCopy (s : State) (src dst n : Nat) : State :=
  let s := readHbm s [(src, n)]
  let s := hbmToHbm s src dst n
  { s with mem := { s.mem with hbmPoison := carryPoison s.mem.hbmPoison s.mem.hbmPoison src dst n } }

def loadCopyInsn (s : State) (w : Insn) : State :=
  issue s 0 w [0x13] (fun s => unlessSkipped s 0 w (fun s =>
    start (hbmCopy s (64 * fieldOf w 47 16) (64 * fieldOf w 79 48) (64 * fieldOf w 103 80)) 0
      (flightOf s 0 w none [] false)))

/-- LOAD_COPY (Table 7-5) -/
def execLoadCopy (w : Insn) (s : State) : Host.Outcome State Fault Refusal :=
  match beyondHbm s w (copyRanges w) with
  | some a => .fault (.hbmRange a)
  | none => .next (loadCopyInsn s w)

/-- The bits of bytes, bit 0 of byte 0 first. -/
def bitList (bs : List Byte) : List Bool := bs.flatMap (fun b => (List.range 8).map (fun i => b.toNat.testBit i))

/-- Bytes of bits, bit 0 of byte 0 first; the last byte is zero-filled. -/
def packBits (n : Nat) (bits : List Bool) : List Byte :=
  (cut 8 n bits).map (fun g => BitVec.ofNat 8 (g.foldr (fun b a => a * 2 + b2n b) 0))

/-- Rows of a matrix turned into columns: cols lists of one element of each row. -/
def transpose {α : Type} : Nat → List (List α) → List (List α)
  | 0, _ => []
  | n + 1, rows => rows.filterMap List.head? :: transpose n (rows.map List.tail)

/-- The transposed bytes of a source slot: element (i, j) goes to (j, i) (Table 7-5). -/
def xposeBytes (src : List Byte) (rows cols esize : Nat) : List Byte :=
  if esize = 0 then
    packBits (ceilDiv (rows * cols) 8) (transpose cols (cut cols rows ((bitList src).take (rows * cols)))).flatten
  else
    let e := if esize = 1 then 1 else 2
    (transpose cols (cut cols rows (cut e (rows * cols) src))).flatten.flatten

def loadXposeInsn (s : State) (w : Insn) : State :=
  issue s 0 w [0x14] (fun s => unlessSkipped s 0 w (fun s =>
    withHandle s 0 w 16 (fun h s =>
      let dst := fieldOf w 37 28
      let rows := fieldOf w 59 48 + 1
      let cols := fieldOf w 71 60 + 1
      let esize := fieldOf w 73 72
      let bits := if esize = 0 then 1 else if esize = 1 then 8 else 16
      withFree s 0 dst (fun s =>
        consume s [(slotBase h, ceilDiv (rows * cols * bits) 8)] (fun s =>
          let s := writeSlot s w dst (slotOf s h).tag (xposeBytes (poolBytes s (slotBase h) 65536) rows cols esize) false
          start s 0 (flightOf s 0 w (some dst) (relSlots w h) false))))))

/-- LOAD_XPOSE (R229) -/
def execLoadXpose (w : Insn) (s : State) : Host.Outcome State Fault Refusal := .next (loadXposeInsn s w)

/-! ### LATTICE (R141 to R143, R151 to R157) -/

/-- A lattice activation: 0x80 reads as −127 (R153). -/
def latAct (b : Byte) : Int := if b = 0x80 then -127 else b.toInt

/-- T-mode sum of a weight row's bits and a column's activations (R155). -/
def tSum : List Bool → List Byte → Int
  | b :: bs, a :: as => (if b then latAct a else - latAct a) + tSum bs as
  | _, _ => 0

/-- B1 sum (R156): matches less mismatches of sign, zero activations left out. -/
def b1Sum : List Bool → List Byte → Int
  | b :: bs, a :: as =>
    (if latAct a = 0 then 0 else if decide (0 < latAct a) == b then 1 else -1) + b1Sum bs as
  | _, _ => 0

/-- Column c of one 32 KiB chunk (R153). -/
def chunkColumn (chunk : List Byte) (c : Nat) : List Byte := (chunk.drop (512 * c)).take 512

/-- Column c of eight consecutive chunks (R153). -/
def wideColumn (bytes : List Byte) (c : Nat) : List Byte :=
  (List.range 8).flatMap (fun j => chunkColumn ((bytes.drop (32768 * j)).take 32768) c)

/-- The 2,048 weight rows of a group: 512 bits each in T-modes, 4,096 in B1 (R152). -/
def groupRows (s : State) (h : Nat) (b1 : Bool) : List (List Bool) :=
  let n := if b1 then 16 else 2
  let len := if b1 then 512 else 64
  (cut len 2048 (poolBytes s (slotBase h) (65536 * n))).map bitList

/-- A 32-bit sum written or accumulated modulo 2^32 (R157). -/
def latWord (acc : Bool) (old : Nat) (x : Int) : Nat := ((x + (if acc then (old : Int) else 0)) % (2 ^ 32 : Nat)).toNat

/-- The outputs of a LATTICE.MUL: 2,048 rows of 64 sums (R157). -/
def latOut (rows : List (List Bool)) (old : List (List Nat)) (cols : Nat → List Byte) (occ : List Nat)
    (b1 acc : Bool) : List Nat :=
  (rows.zip old).flatMap (fun (bits, o) =>
    byColumn occ (fun c => latWord acc (getAt 0 o c) (if b1 then b1Sum bits (cols c) else tSum bits (cols c))))

/-- The columns' activation ranges: one chunk from A, or eight (R153). -/
def latRanges (a chunks : Nat) (occ : List Nat) : List (Nat × Nat) :=
  (List.range chunks).flatMap (fun j => occ.map (fun c => (a + 32768 * j + 512 * c, 512)))

/-- The previous LATTICE.MUL of the tick lets this one keep its tables (R143). -/
def keepOk (s : State) (w : Insn) : Bool :=
  match s.core.tables with
  | some t => t.addr == fieldOf w 54 35 && t.model == fieldOf w 86 75 && t.tile == fieldOf w 98 87
  | none => false

def setTables (s : State) (t : Option Tables) : State := { s with core := { s.core with tables := t } }

/-- A LATTICE.MUL that has passed its checks (R153 to R157). -/
def latticeRun (s : State) (w : Insn) (h : Nat) (cols : List WorkFrame) : State :=
  let b1 := fieldOf w 18 16 == 0
  let acc := bitAt w.toNat 22
  let keep := bitAt w.toNat 21 && !b1
  let occ := cols.map (·.column)
  let a := workBase (fieldOf w 54 35)
  let o := workBase (fieldOf w 74 55)
  let src := match keep, s.core.tables with
    | true, some t => t.chunk
    | _, _ => poolBytes s a (if b1 then 262144 else 32768)
  let out := latOut (groupRows s h b1) (poolRows s o 2048) (if b1 then wideColumn src else chunkColumn src) occ b1 acc
  let t : Option Tables := if b1 then none
    else some { addr := fieldOf w 54 35, model := fieldOf w 86 75, tile := fieldOf w 98 87, chunk := src }
  start (setTables (poolWrite s o (bytesOfWords out)) t) 4 (flightOf s 4 w none (relSlots w h) false)

/-- The operand ranges of a LATTICE.MUL: weights, activations, and the old sums under ACC. -/
def latticeOperands (w : Insn) (h : Nat) (occ : List Nat) : List (Nat × Nat) :=
  let b1 := fieldOf w 18 16 == 0
  (groupOf w h).map (fun x => (slotBase x, 65536)) ++
    (if bitAt w.toNat 21 && !b1 then [] else latRanges (workBase (fieldOf w 54 35)) (if b1 then 8 else 1) occ) ++
    (if bitAt w.toNat 22 then elementRanges (workBase (fieldOf w 74 55)) 2048 occ else [])

/-- A weight group's alignment: 2 in T-modes, 16 in B1 (R142). -/
def groupAligned (w : Insn) (h : Nat) : Bool := if fieldOf w 18 16 = 0 then h % 16 == 0 else h % 2 == 0

def latticeInsn (s : State) (w : Insn) : State :=
  issue s 4 w [0x50] (fun s =>
    if skipped s w then
      let s := setTables s none
      match takeHandle s 4 (fieldOf w 34 24) with
      | (some h, t) => if groupAligned w h then skip s 4 w else coreFault t 8 4
      | (none, t) => t
    else
      let cols := tileColumns s (fieldOf w 86 75) (fieldOf w 98 87)
      match takeHandle s 4 (fieldOf w 34 24) with
      | (none, s) => s
      | (some h, s) =>
        if !groupAligned w h then coreFault s 8 4
        else if (groupOf w h).any (fun x => (slotOf s x).count == 0) then coreFault s 5 4
        else if bitAt w.toNat 21 && !keepOk s w then coreFault s 7 4
        else tagged s (groupOf w h) cols (fun s =>
          consume s (latticeOperands w h (cols.map (·.column))) (fun s => latticeRun s w h cols)))

/-- LATTICE_MUL (R155) -/
def execLatticeMul (w : Insn) (s : State) : Host.Outcome State Fault Refusal := .next (latticeInsn s w)

/-! ### PLINTH (R162 to R164) -/

/-- The elements of 1 KiB of a format: 0 BF16, 1 E4M3, 2 E5M2 (R162). -/
def plinthElems (fmt : Nat) (bs : List Byte) : List PlinthVal :=
  if fmt = 0 then (wordsOf 2 512 bs).map (fun h => plinthOfFp (bf16ToFp h))
  else if fmt = 1 then (bs.map (fun b => plinthE4m3 b.toNat))
  else bs.map (fun b => plinthE5m2 b.toNat)

/-- One output of PLINTH.MMA (R163). -/
def plinthOne (acc : Nat) (ws xs : List PlinthVal) : Nat := fpFlush (plinthAcc acc ((ws.zip xs).map (fun p => plinthProd p.1 p.2)))

/-- A PLINTH.MMA that has passed its checks. -/
def plinthRun (s : State) (w : Insn) (h : Nat) (cols : List WorkFrame) : State :=
  let occ := cols.map (·.column)
  let a := workBase (fieldOf w 52 33)
  let o := workBase (fieldOf w 72 53)
  let ws := (cut 1024 64 (poolBytes s (slotBase h) 65536)).map (plinthElems (fieldOf w 17 16))
  let xs := (cut 1024 64 (poolBytes s a 65536)).map (plinthElems (fieldOf w 19 18))
  let out := (ws.zip (poolRows s o 64)).flatMap (fun (row, old) =>
    byColumn occ (fun c => plinthOne (if bitAt w.toNat 20 then getAt 0 old c else 0) row (getAt [] xs c)))
  start (poolWrite s o (bytesOfWords out)) 5 (flightOf s 5 w none (relSlots w h) false)

/-- The operand ranges of a PLINTH.MMA. -/
def plinthOperands (w : Insn) (h : Nat) (occ : List Nat) : List (Nat × Nat) :=
  [(slotBase h, 65536)] ++ occ.map (fun c => (workBase (fieldOf w 52 33) + 1024 * c, 1024)) ++
    (if bitAt w.toNat 20 then elementRanges (workBase (fieldOf w 72 53)) 64 occ else [])

def plinthInsn (s : State) (w : Insn) : State :=
  issue s 5 w [0x60] (fun s => unlessSkipped s 5 w (fun s =>
    let cols := tileColumns s (fieldOf w 84 73) (fieldOf w 96 85)
    withHandle s 5 w 22 (fun h s =>
      tagged s [h] cols (fun s =>
        consume s (plinthOperands w h (cols.map (·.column))) (fun s => plinthRun s w h cols)))))

/-- PLINTH_MMA (R163) -/
def execPlinthMma (w : Insn) (s : State) : Host.Outcome State Fault Refusal := .next (plinthInsn s w)

/-! ### VECTOR (R159 to R161, R165 to R169) -/

/-- The occupied columns a VECTOR.OP works on: all 64 for MODEL 0xFFF. -/
def vecColumns (s : State) (w : Insn) : List WorkFrame := tileColumns s (fieldOf w 107 96) (fieldOf w 119 108)

def vecOcc (s : State) (w : Insn) : List Nat :=
  if fieldOf w 107 96 = 0xFFF then List.range 64 else (vecColumns s w).map (·.column)

/-- Elementwise functions of one operand (Table 8-2). -/
def vecUnary (func a : Nat) : Nat :=
  if func = 0x10 then (if fpIsNan a then fpNan else if fpNeg a then 0 else fpFlush a)
  else if func = 0x11 then fpFlush (fpSigmoid .chosen (fpIn a))
  else if func = 0x12 then fpFlush (fpTanh .chosen (fpIn a))
  else if func = 0x13 then fpFlush (fpExpF .chosen (fpIn a))
  else if func = 0x14 then fpFlush (fpLog .chosen (fpIn a))
  else fpFlush (fpRsqrt .chosen (fpIn a))

/-- ADD, MUL and MAC of one element: the old D, S0, S1 (Table 8-2). -/
def vecBinary (func d a b : Nat) : Nat :=
  if func = 0x02 then fpFlush (fpAdd (fpIn a) (fpIn b))
  else if func = 0x03 then fpFlush (fpMul (fpIn a) (fpIn b))
  else fpFlush (fpFma (fpIn a) (fpIn b) (fpIn d))

/-- One element of COMBINE (R160). -/
def combineOne (acc unitCs : Bool) (d sum rs cs : Nat) : Nat :=
  let t := fpMul (fpOfI32 sum) (bf16ToFp rs)
  let t := if unitCs then t else fpMul t cs
  fpFlush (if acc then fpAdd d t else t)

/-- Rows of 64 words, column by column: each column's words in row order. -/
def columnsOf (rows : List (List Nat)) : List (List Nat) := transpose 64 rows

/-- A per-column function's 64 columns back in rows; unoccupied columns are zero (R137). -/
def perColumn (rows : List (List Nat)) (occ : List Nat) (f : Nat → List Nat → List Nat) : List Nat :=
  let n := rows.length
  let outs := (List.range 64).zip (columnsOf rows) |>.map (fun (c, xs) =>
    if occ.contains c then f c xs else List.replicate n 0)
  (transpose n outs).flatten

/-- A column's values laid out in chunks of `per` rows, zero-filled to the last chunk's end, column by column. -/
def chunked {α : Type} (per chunks : Nat) (zero : α) (cols : List (List α)) : List α :=
  (List.range chunks).flatMap (fun j => cols.flatMap (fun xs =>
    let part := (xs.drop (per * j)).take per
    part ++ List.replicate (per - part.length) zero))

/-- The values of occupied columns, empty for the others. -/
def occColumns (rows : List (List Nat)) (occ : List Nat) : List (Option (List Nat)) :=
  (List.range 64).zip (columnsOf rows) |>.map (fun (c, xs) => if occ.contains c then some (xs.map fpIn) else none)

/-- What a VECTOR.OP writes: (work-area byte address, bytes) pairs. COMBINE is apart. -/
def vecWrites (s : State) (w : Insn) (occ : List Nat) : List (Nat × List Byte) :=
  let func := fieldOf w 23 16
  let n := fieldOf w 95 84
  let rows := 2 * n
  let s0 := workBase (fieldOf w 43 24)
  let s1 := workBase (fieldOf w 63 44)
  let d := workBase (fieldOf w 83 64)
  let xs := poolRows s s0 rows
  if func = 0x02 || func = 0x03 || func = 0x04 then
    let out := ((xs.zip (poolRows s s1 rows)).zip (poolRows s d rows)).flatMap (fun ((a, b), o) =>
      byColumn occ (fun c => vecBinary func (getAt 0 o c) (getAt 0 a c) (getAt 0 b c)))
    [(d, bytesOfWords out)]
  else if 0x10 ≤ func && func ≤ 0x15 then
    [(d, bytesOfWords (xs.flatMap (fun a => byColumn occ (fun c => vecUnary func (getAt 0 a c)))))]
  else if func = 0x20 then [(d, bytesOfWords (perColumn xs occ (fun _ col => softmaxColumn (col.map fpIn))))]
  else if func = 0x21 then
    let gs := (poolWords s s1 rows).map fpIn
    let bs := (poolWords s (s1 + 4 * rows) rows).map fpIn
    [(d, bytesOfWords (perColumn xs occ (fun _ col => normColumn (col.map fpIn) gs bs)))]
  else if func = 0x30 then
    let cols := occColumns xs occ
    let q := cols.map (fun o => match o with
      | some col => col.map (quantOne (quantScale col))
      | none => [])
    let record := cols.map (fun o => match o with
      | some col => quantScale col
      | none => 0)
    [(d, chunked 512 (ceilDiv rows 512) 0 q), (s1, bytesOfWords record)]
  else if func = 0x31 then
    let cols := (occColumns xs occ).map (fun o => (o.getD []).map (fun x => leBytes 2 (fpToBf16 x)))
    [(d, (chunked 512 (ceilDiv rows 512) [0, 0] cols).flatten)]
  else if func = 0x32 then
    let cols := (occColumns xs occ).map (fun o => (o.getD []).map (fun x => BitVec.ofNat 8 (fpToE4m3 x)))
    [(d, chunked 1024 (ceilDiv rows 1024) 0 cols)]
  else if func = 0x40 then
    let best := (occColumns xs occ).map (fun o => match o with
      | some col => ((rankColumn col).head?.map (·.1)).getD 0
      | none => 0)
    [(d, bytesOfWords best)]
  else if func = 0x41 then
    let k := fieldOf w 59 44
    let recs := (occColumns xs occ).flatMap (fun o => match o with
      | some col => ((rankColumn col).take k).flatMap (fun p => [if fpIsNan p.2 then fpNan else fpFlush p.2, p.1])
      | none => List.replicate (2 * k) 0)
    [(d, bytesOfWords recs)]
  else []

/-- The operand ranges of a VECTOR.OP other than COMBINE. -/
def vecOperands (w : Insn) (occ : List Nat) : List (Nat × Nat) :=
  let func := fieldOf w 23 16
  let rows := 2 * fieldOf w 95 84
  let s1 := workBase (fieldOf w 63 44)
  elementRanges (workBase (fieldOf w 43 24)) rows occ ++
    (if func = 0x02 || func = 0x03 || func = 0x04 then elementRanges s1 rows occ else []) ++
    (if func = 0x04 then elementRanges (workBase (fieldOf w 83 64)) rows occ else []) ++
    (if func = 0x21 then [(s1, 8 * rows)] else [])

def vecRun (s : State) (w : Insn) : State :=
  let occ := vecOcc s w
  consume s (vecOperands w occ) (fun s =>
    start ((vecWrites s w occ).foldl (fun s p => poolWrite s p.1 p.2) s) 6 (flightOf s 6 w none [] false))

/-- The fields of COMBINE's S1 (Table 8-1). -/
def combSet (w : Insn) : Nat := fieldOf w 59 56
def combAcc (w : Insn) : Bool := bitAt w.toNat 60
def combUnit (w : Insn) : Bool := bitAt w.toNat 61

def combineRun (s : State) (w : Insn) (h : Nat) : State :=
  let occ := vecOcc s w
  let rows := 2 * fieldOf w 95 84
  let d := workBase (fieldOf w 83 64)
  let scaleAt := slotBase h + 4096 * combSet w
  let ranges := elementRanges (workBase (fieldOf w 43 24)) rows occ ++ [(scaleAt, 2 * rows)] ++
    (if combUnit w then [] else occ.map (fun c => (d - 256 + 4 * c, 4))) ++
    (if combAcc w then elementRanges d rows occ else [])
  consume s ranges (fun s =>
    let cs := poolWords s (d - 256) 64
    let rs := wordsOf 2 rows (poolBytes s scaleAt (2 * rows))
    let out := ((poolRows s (workBase (fieldOf w 43 24)) rows).zip ((poolRows s d rows).zip rs)).flatMap
      (fun (a, o, r) => byColumn occ (fun c =>
        combineOne (combAcc w) (combUnit w) (fpIn (getAt 0 o c)) (getAt 0 a c) (fpIn (bf16ToFp r) / 65536)
          (fpIn (getAt 0 cs c))))
    start (poolWrite s d (bytesOfWords out)) 6 (flightOf s 6 w none (relSlots w h) false))

def vectorInsn (s : State) (w : Insn) : State :=
  issue s 6 w [0x70] (fun s => unlessSkipped s 6 w (fun s =>
    if fieldOf w 23 16 = 1 then
      withHandle s 6 w 44 (fun h s => tagged s [h] (vecColumns s w) (fun s => combineRun s w h))
    else vecRun s w))

/-- VECTOR_OP (R166) -/
def execVectorOp (w : Insn) (s : State) : Host.Outcome State Fault Refusal := .next (vectorInsn s w)

/-! ### HOSTIO (R137, R144) -/

/-- The bytes that HOSTIO.GATHER gives a column: the frame's payload, cut or zero-filled to CLEN × 64 (Table 7-8). -/
def gatherColumn (cols : List WorkFrame) (n c : Nat) : List Byte :=
  match cols.find? (fun x => x.column == c) with
  | some x => padTo n (x.frame.payload.getD [])
  | none => List.replicate n 0

def gatherInsn (s : State) (w : Insn) : State :=
  issue s 7 w [0x80] (fun s => unlessSkipped s 7 w (fun s =>
    let cols := tileColumns s (fieldOf w 27 16) (fieldOf w 39 28)
    let n := 64 * fieldOf w 68 60
    start (poolWrite s (workBase (fieldOf w 59 40)) ((List.range 64).flatMap (gatherColumn cols n))) 7
      (flightOf s 7 w none [] false)))

/-- HOSTIO_GATHER (R137) -/
def execHostioGather (w : Insn) (s : State) : Host.Outcome State Fault Refusal := .next (gatherInsn s w)

/-- The staged records of a column: (DLEN, DATA) pairs (Table 7-8). -/
def postRecords (s : State) (base count column : Nat) : List (Nat × List Byte) :=
  (List.range count).map (fun i =>
    let a := base + (column * count + i) * 64
    (leNat (poolBytes s a 1), poolBytes s (a + 32) 32))

/-- One occupied column staged, unless a DLEN above 32 keeps its result out. -/
def stagePost (base count : Nat) (cols : List WorkFrame) (s : State) (x : WorkFrame) : WorkFrame :=
  if cols.contains x then
    let r := postRecords s base count x.column
    if r.any (fun e => decide (32 < e.1)) then x else { x with posted := some r }
  else x

def postInsn (s : State) (w : Insn) : State :=
  issue s 7 w [0x81] (fun s => unlessSkipped s 7 w (fun s =>
    let cols := tileColumns s (fieldOf w 27 16) (fieldOf w 39 28)
    let count := ((modelAt s (fieldOf w 27 16)).map (·.resultEntries)).getD 1
    let base := workBase (fieldOf w 59 40)
    consume s (cols.map (fun c => (base + c.column * count * 64, count * 64))) (fun s =>
      let bad := cols.any (fun c => (postRecords s base count c.column).any (fun e => decide (32 < e.1)))
      let s' := { s with str := { s.str with work := s.str.work.map (stagePost base count cols s) } }
      if bad then coreFault s' 10 7 else start s' 7 (flightOf s' 7 w none [] false))))

/-- HOSTIO_POST (R144) -/
def execHostioPost (w : Insn) (s : State) : Host.Outcome State Fault Refusal := .next (postInsn s w)

/-- CORE_COMPLETION (Table 7-19): it is not logged (R330); VEC is raised once the entry is written. -/
def notify (s : State) (w : Insn) : State :=
  let e := evOf 0x0301 3 (fieldOf w 63 32 + 7 * 2 ^ 32 + (queueOf s 7).head % 2 ^ 24 * 2 ^ 40)
  let p := ringPut s 0 e
  if p.1 && decide (fieldOf w 26 16 ≠ 0) then raiseMsix p.2 0 (fieldOf w 26 16) else p.2

def notifyInsn (s : State) (w : Insn) : State :=
  issue s 7 w [0x82] (fun s => unlessSkipped s 7 w (fun s => start (notify s w) 7 (flightOf s 7 w none [] false)))

/-- HOSTIO_NOTIFY (R144) -/
def execHostioNotify (w : Insn) (s : State) : Host.Outcome State Fault Refusal := .next (notifyInsn s w)

end Sys2Proof.Machine
end

