-- ==== Sys2Proof/Machine/Codec.lean ====
section
/-! DEFINITION. Sealed blocks, the Idzil code, CODEC.OPEN and CODEC.SEAL (10: R197 to R209; Table 7-6). -/

namespace Sys2Proof.Machine

/-! ### The Idzil code (R203, R204) -/

/-- The code lengths of symbols 0 to 271: two per byte. -/
def idzilLengths (arr : List Byte) : List Nat := (arr.take 136).flatMap (fun b => [b.toNat % 16, b.toNat / 16])

/-- The rule of R203 on the lengths. -/
def idzilOk (ls : List Nat) : Bool :=
  let used := ls.filter (· != 0)
  getAt 0 ls 271 == 0 &&
    (used.foldl (fun a l => a + 2 ^ (15 - l)) 0 == 2 ^ 15 || used == [1])

/-- The symbols of one length, in ascending order. -/
def symbolsOf (ls : List Nat) (len : Nat) : List Nat := (List.range 272).filter (fun i => getAt 0 ls i == len)

/-- Canonical codes: for each length 1 to 15, its first code and its symbols. -/
def idzilTable (ls : List Nat) : List (Nat × List Nat) :=
  ((rangeFrom 1 15).foldl (fun (acc : Nat × Nat × List (Nat × List Nat)) len =>
    let first := (acc.1 + acc.2.1) * 2
    let syms := symbolsOf ls len
    (first, syms.length, acc.2.2 ++ [(first, syms)])) (0, 0, [])).2.2

/-- One symbol read from the stream, and the rest of it. -/
def idzilSymbol : List (Nat × List Nat) → Nat → List Bool → Option (Nat × List Bool)
  | [], _, _ => none
  | _ :: _, _, [] => none
  | (first, syms) :: t, c, b :: bits =>
    let c := 2 * c + b2n b
    if first ≤ c && c - first < syms.length then some (getAt 0 syms (c - first), bits) else idzilSymbol t c bits

/-- The block loop of R204: `left` bytes to write; `fuel` bounds the symbols read. Gives the bytes and the unread bits. -/
def idzilLoop (tab : List (Nat × List Nat)) : Nat → Nat → List Bool → Option (List Byte × List Bool)
  | _, 0, bits => some ([], bits)
  | 0, _ + 1, _ => none
  | fuel + 1, left + 1, bits =>
    match idzilSymbol tab 0 bits with
    | none => none
    | some (sym, rest) =>
      if sym < 256 then (idzilLoop tab fuel left rest).map (fun r => (BitVec.ofNat 8 sym :: r.1, r.2))
      else
        let n := sym - 254
        let run := 2 ^ n + (rest.take n).foldr (fun b a => a * 2 + b2n b) 0
        if rest.length < n || left + 1 < run then none
        else (idzilLoop tab fuel (left + 1 - run) (rest.drop n)).map (fun r => (List.replicate run 0 ++ r.1, r.2))

/-- A compressed plaintext decoded to ELEN bytes, or the failure BLK_DECODE (R204). -/
def idzilDecode (pt : List Byte) (elen : Nat) : Option (List Byte) :=
  let ls := idzilLengths pt
  if !idzilOk ls then none
  else
    match idzilLoop (idzilTable ls) elen elen (bitList (pt.drop 136)) with
    | some (out, rest) => if rest.length < 8 && rest.all (!·) then some out else none
    | none => none

/-! ### Blocks (R197 to R202) -/

def blkRaw (b : List Byte) : Bool := bitAt (leAt b 3 1) 0
def blkRuntime (b : List Byte) : Bool := bitAt (leAt b 3 1) 1
def blkCtLen (b : List Byte) : Nat := leAt b 12 4 % 2 ^ 17
def blkElen (b : List Byte) : Nat := leAt b 16 4
def blkNonce (b : List Byte) : List Byte := bytesAt b 20 12

/-- Step 1 of Table 10-9. -/
def blkHeadOk (b : List Byte) : Bool :=
  b.take 2 == [0x52, 0x42] && leAt b 2 1 == 1 && bitsOf (leAt b 3 1) 7 2 == 0 && bitsOf (leAt b 12 4) 31 17 == 0 &&
    zeroAt b 48 16

/-- Step 3 of Table 10-9. -/
def blkLenOk (b : List Byte) : Bool :=
  decide (1 ≤ blkCtLen b) && decide (blkCtLen b ≤ 65408) && decide (1 ≤ blkElen b) && decide (blkElen b ≤ 65536) &&
    (!blkRaw b || blkElen b == blkCtLen b) && (blkRaw b || decide (137 ≤ blkCtLen b))

/-- The nonce of an image block (R198). -/
def imageNonce (base : List Byte) (block : Nat) : List Byte := base.take 8 ++ leBytes 4 block

/-- Step 5 of Table 10-9. -/
def blkNonceOk (b : List Byte) (base : List Byte) (block : Nat) : Bool :=
  if blkRuntime b then bitAt (leAt b 31 1) 7 else blkNonce b == imageNonce base block

/-- Sealed units of a block's ciphertext and their CRC words' place (R197). -/
def blkCrcAt (b : List Byte) : Nat := 64 + 64 * ceilDiv (blkCtLen b) 64

/-- Step 6 of Table 10-9: every CRC word (R202). -/
def blkCrcOk (b : List Byte) : Bool :=
  (List.range (ceilDiv (blkCtLen b) 4096)).all (fun j =>
    leAt b (blkCrcAt b + 4 * j) 4 == crc32c (bytesAt b (64 + 4096 * j) (min 4096 (blkCtLen b - 4096 * j))))

/-- Steps 1 to 5: 0 or the check code, for a block index, KEY_ID and nonce base. -/
def blkHeadCheck (b : List Byte) (block keyId : Nat) (base : List Byte) : Nat :=
  if !blkHeadOk b then 0x21
  else if leAt b 4 4 ≠ block then 0x22
  else if !blkLenOk b then 0x23
  else if leAt b 8 4 ≠ keyId then 0x24
  else if !blkNonceOk b base block then 0x25
  else 0

/-- The checks of Table 10-9 in order: the check code, or the ELEN expanded bytes (R208). -/
def openBlock (b : List Byte) (block keyId : Nat) (base key : List Byte) : Except Nat (List Byte) :=
  let c := blkHeadCheck b block keyId base
  if c ≠ 0 then .error c
  else if !blkCrcOk b then .error 0x26
  else
    match gcmOpen key (blkNonce b) (b.take 32) (bytesAt b 64 (blkCtLen b)) (bytesAt b 32 16) with
    | none => .error 0x27
    | some pt =>
      if blkRaw b then .ok pt
      else
        match idzilDecode pt (blkElen b) with
        | some out => .ok out
        | none => .error 0x28

/-- The CRC words of a ciphertext, padded to 64 bytes. -/
def crcUnit (ct : List Byte) : List Byte :=
  padTo 64 ((List.range (ceilDiv ct.length 4096)).flatMap (fun j => leBytes 4 (crc32c ((ct.drop (4096 * j)).take 4096))))

/-- A raw block sealed at run time (R200, R201). -/
def sealBlock (pt : List Byte) (block keyId : Nat) (nonce key : List Byte) : List Byte :=
  let aad := [(0x52 : Byte), 0x42, 1, 3] ++ leBytes 4 block ++ leBytes 4 keyId ++ leBytes 4 pt.length ++
    leBytes 4 pt.length ++ nonce
  let c := gcmSeal key nonce aad pt
  aad ++ c.2 ++ List.replicate 16 0 ++ padTo (64 * ceilDiv pt.length 64) c.1 ++ crcUnit c.1

/-- The run-time nonce (R199). -/
def runtimeNonce (s : State) (salt : Nat) : List Byte :=
  leBytes 12 (2 ^ 95 + s.link.chipId % 2 ^ 11 * 2 ^ 84 + s.tick.index % 2 ^ 40 * 2 ^ 44 + s.core.seals % 2 ^ 17 * 2 ^ 27 +
    salt % 2 ^ 27)

/-! ### The instructions -/

/-- The key slot of a model entry; an empty one where none is held. -/
def modelKey (s : State) (e : ModelEntry) : KeySlot :=
  (keyOf s e.keySlot).getD { key := List.replicate 32 0, keyId := 0, owner := 0, salt := 0 }

/-- A model entry named by an instruction of a plan that PLAN_LOAD accepted (R145 step 8). -/
def modelOf (s : State) (m : Nat) : ModelEntry :=
  (modelAt s m).getD { modelId := 0, ring := 0, resultEntries := 1, keySlot := 0, keyId := 0, nonceBase := [], home := 0
                       maxBound := 0, maxBoundA := 0, stateLen := 0, initAddr := 0 }

/-- The bytes of a block that the checks read: its head, and the rest when its lengths hold. -/
def blockSpan (b : List Byte) : Nat := if blkHeadOk b && blkLenOk b then blkCrcAt b + 64 else 64

/-- CODEC.OPEN of a source slot into DST (R206, R208, R209). -/
def openInto (s : State) (w : Insn) (h : Nat) : State :=
  let m := fieldOf w 27 16
  let e := modelOf s m
  let k := modelKey s e
  let block := fieldOf w 59 28
  let dst := fieldOf w 81 72
  match openBlock (poolBytes s (slotBase h) 65536) block e.keyId e.nonceBase k.key with
  | .error c => blockFault (slotZero s dst) c m block
  | .ok out => start (writeSlot (slotZero s dst) w dst (some k.owner) out false) 3 (flightOf s 3 w (some dst) (relSlots w h) false)

def codecOpenInsn (s : State) (w : Insn) : State :=
  issue s 3 w [0x40] (fun s => unlessSkipped s 3 w (fun s =>
    withHandle s 3 w 60 (fun h s => withFree s 3 (fieldOf w 81 72) (fun s =>
      consume s [(slotBase h, blockSpan (poolBytes s (slotBase h) 64))] (fun s => openInto s w h)))))

/-- CODEC_OPEN (R208) -/
def execCodecOpen (w : Insn) (s : State) : Host.Outcome State Fault Refusal := .next (codecOpenInsn s w)

/-- CODEC.SEAL of a source slot into DST (R199 to R202). -/
def sealInto (s : State) (w : Insn) (h : Nat) : State :=
  let e := modelOf s (fieldOf w 27 16)
  let k := modelKey s e
  let dst := fieldOf w 81 72
  let b := sealBlock (poolBytes s (slotBase h) 65408) (fieldOf w 59 28) e.keyId (runtimeNonce s k.salt) k.key
  let s' := writeSlot s w dst none b false
  start { s' with core := { s'.core with seals := s'.core.seals + 1 } } 3 (flightOf s 3 w (some dst) (relSlots w h) false)

def codecSealInsn (s : State) (w : Insn) : State :=
  issue s 3 w [0x41] (fun s => unlessSkipped s 3 w (fun s =>
    withHandle s 3 w 60 (fun h s => withFree s 3 (fieldOf w 81 72) (fun s =>
      let owner := (modelKey s (modelOf s (fieldOf w 27 16))).owner
      if (slotOf s h).tag ≠ some owner then tagMismatch s h (slotOf s h).tag owner
      else consume s [(slotBase h, 65408)] (fun s => sealInto s w h)))))

/-- CODEC_SEAL (R200) -/
def execCodecSeal (w : Insn) (s : State) : Host.Outcome State Fault Refusal := .next (codecSealInsn s w)

end Sys2Proof.Machine
end

