-- ==== Sys2Proof/Machine/SapOps.lean ====
section
/-! DEFINITION. The sap: landing, launching and forwarding blocks (11; Table 7-6; R212 to R219, R222, R223). -/

namespace Sys2Proof.Machine

/-! ### The schedule -/

/-- A schedule entry of the plan that runs. -/
def schedAt (s : State) (i : Nat) : Option SchedEntry :=
  match runningPlan s with
  | some p => p.sched[i]?
  | none => none

/-- The land entries of a port, in schedule order, with their numbers. -/
def landEntries (p : Plan) (port : Nat) : List (SchedEntry × Nat) :=
  (p.sched.zipIdx).filter (fun e => e.1.kind == 2 && e.1.port == port)

/-- The land entry of a port that is `ahead` entries after the next one to land. -/
def landEntry (s : State) (port ahead : Nat) : Option (SchedEntry × Nat) :=
  match runningPlan s with
  | some p => (landEntries p port)[getAt 0 s.sap.landNext port + ahead]?
  | none => none

/-- Chunks of a block of LEN 64-byte units. -/
def chunkCount (len : Nat) : Nat := ceilDiv (64 * len) 4096

/-! ### Sending (R214, R216, R219) -/

/-- The send work of a flight with its place among SAPOUT's flights. -/
def sendWorks (s : State) : List (SendWork × Nat) :=
  ((queueOf s 2).flights.zipIdx).filterMap (fun (f, i) => match f.work with
    | .send w => some (w, i)
    | _ => none)

/-- Chunks of a slot that have landed so far: all of them unless a SAPIN.LAND into the slot is in flight. -/
def landedOf (s : State) (slot : Nat) : Nat :=
  match (queueOf s 1).flights.findSome? (fun f => match f.work with
    | .land w => if w.dst = slot then some w.landed else none
    | _ => none) with
  | some n => n
  | none => 16

/-- Whether a send has chunks left. -/
def sendLeft (s : State) (w : SendWork) : Bool :=
  match schedAt s w.sched with
  | some e => decide (w.sent < chunkCount e.len)
  | none => false

/-- The launch and forward entries of a port, in schedule order, with their numbers. -/
def sendEntries (p : Plan) (port : Nat) : List (SchedEntry × Nat) :=
  (p.sched.zipIdx).filter (fun e => e.1.kind != 2 && e.1.port == port)

/-- The number of the entry that a port sends next (R214). -/
def sendTurn (s : State) (port : Nat) : Option Nat :=
  match runningPlan s with
  | some p => ((sendEntries p port)[getAt 0 s.sap.sendNext port]?).map (·.2)
  | none => none

/-- The send that a port works on: that of the entry whose turn it is, once its OFFSET has passed. A later entry waits for it. -/
def portSend (s : State) (port : Nat) : Option (SendWork × Nat) :=
  (sendWorks s).find? (fun x => sendLeft s x.1 && x.1.started && sendTurn s port == some x.1.sched)

/-- Whether a port can take one more chunk: ACTIVE, a data tag free, credits for 18 flits. -/
def portTakesChunk (s : State) (port : Nat) : Bool :=
  let x := portOf s port
  x.st == .active && (freeTag x.units true).isSome && decide (18 ≤ x.txCredit)

/-- The next chunk that SAPOUT may send: (send work, its flight, port). -/
def nextSend (s : State) : Option (SendWork × Nat × Nat) :=
  (List.range 8).findSome? (fun p =>
    if !portTakesChunk s p then none
    else match portSend s p with
      | some (w, i) => if w.sent < landedOf s w.slot then some (w, i, p) else none
      | none => none)

/-- A flight's work replaced. -/
def setWork (s : State) (q i : Nat) (g : Flight → Flight) : State :=
  let x := queueOf s q
  match x.flights[i]? with
  | some f => setQueue s q { x with flights := setAt x.flights i (g f) }
  | none => s

/-- One chunk of a block sent (Tables 12-2, 12-3); a poisoned unit raises MEM_POISON instead (R327). -/
def sendChunk (s : State) (w : SendWork) (i port : Nat) : State :=
  match schedAt s w.sched with
  | none => s
  | some e =>
    let a := slotBase w.slot + 4096 * w.sent
    let n := min 4096 (64 * e.len - 4096 * w.sent)
    let s := readPool s [(a, n)]
    match poisonedUnit s.mem.poolPoison [(a, n)] with
    | some u => memPoison s 2 u
    | none =>
      let last := w.sent + 1 == chunkCount e.len
      let body := leBytes 4 (modelOf s e.model).modelId ++ leBytes 4 e.block ++ leBytes 1 (w.sent % 16 + b2n last * 128) ++
        [0] ++ leBytes 2 (n / 64)
      let u := buildUnit (headFor s chunkType 0 e.peer body) (poolBytes s a n)
      let s := setWork s 2 i (fun f => { f with work := .send { w with sent := w.sent + 1 } })
      let s := { s with sap := { s.sap with
          bytesOut := wrapAdd64 s.sap.bytesOut n
          sendNext := if last then setAt s.sap.sendNext port (getAt 0 s.sap.sendNext port + 1) else s.sap.sendNext } }
      sendUnit s port e.peer u true (some w.sched)

/-- Chunks sent while ports, tags, credits and landings allow. -/
def pumpSends : Nat → State → State
  | 0, s => s
  | n + 1, s =>
    if s.core.halted then s
    else match nextSend s with
      | some (w, i, p) => pumpSends n (sendChunk s w i p)
      | none => s

/-- All that SAPOUT may send now: at most 32 instructions of 16 chunks. -/
def sapFlow (s : State) : State := pumpSends 512 s

/-- Chunks of a schedule entry acknowledged: its flight finishes with the last one, and what has finished retires. -/
def ackSched (s : State) (e n : Nat) : State :=
  match (sendWorks s).find? (fun x => x.1.sched == e) with
  | none => s
  | some (w, i) =>
    let total := ((schedAt s e).map (fun x => chunkCount x.len)).getD 0
    setWork s 2 i (fun f => { f with work := .send { w with acked := w.acked + n }
                                     finished := decide (total ≤ w.acked + n) })

/-- Acknowledged units leave the replay buffer; their chunks count for their sends (R239). -/
def ackUnits (s : State) (p : Nat) (acked : List OutUnit) : State :=
  let s := acked.foldl (fun s v => match v.sched with
    | some e => ackSched s e 1
    | none => s) s
  sapFlow (pump (if s.core.halted then s else retireAll s 2) p)

/-! ### SAPOUT.LAUNCH and SAPOUT.FORWARD -/

/-- A slot that holds a tenant's plaintext is not sent: TAG_MISMATCH, whose tenant has no meaning here and is a free value (R15, R20; log 97). -/
def sealedOnly (s : State) (h : Nat) (body : State → State) : State :=
  match (slotOf s h).tag with
  | none => body s
  | some t =>
    let p := drawRandom s 256
    tagMismatch p.2 h (some t) p.1

def sendInsn (s : State) (w : Insn) (op : Nat) : State :=
  issue s 2 w [op] (fun s => unlessSkipped s 2 w (fun s =>
    withHandle s 2 w 32 (fun h s => sealedOnly s h (fun s =>
      let i := fieldOf w 31 16
      let off := ((schedAt s i).map (·.offset)).getD 0
      let work := Work.send { sched := i, slot := h, started := decide (offsetNs s off ≤ s.time.now), sent := 0, acked := 0 }
      sapFlow (start s 2 { flightOf s 2 w none (relSlots w h) false with work := work })))))

/-- SAPOUT_LAUNCH (R214) -/
def execSapoutLaunch (w : Insn) (s : State) : Host.Outcome State Fault Refusal := .next (sendInsn s w 0x30)

/-- SAPOUT_FORWARD (R216) -/
def execSapoutForward (w : Insn) (s : State) : Host.Outcome State Fault Refusal := .next (sendInsn s w 0x31)

/-- Grove time reaches the OFFSET of a launch or forward entry (R214). -/
def sapSlot (s : State) (i : Nat) : State :=
  match schedAt s i with
  | none => s
  | some e =>
    if e.kind = 2 || !beforeBoundary s (offsetNs s e.offset) then s
    else
      let s := advanceTo s (offsetNs s e.offset)
      match (sendWorks s).find? (fun x => x.1.sched == i && !x.1.started) with
      | some (w, f) => sapFlow (setWork s 2 f (fun fl => { fl with work := .send { w with started := true } }))
      | none => s

/-- SAP_SLOT (R214) -/
def execSapSlot (sched : Nat) (s : State) : Host.Outcome State Fault Refusal := .next (sapSlot s sched)

/-! ### Landing (R215) -/

/-- The SAPIN.LAND in flight for a schedule entry. -/
def landFlight (s : State) (e : Nat) : Option (LandWork × Nat) :=
  ((queueOf s 1).flights.zipIdx).findSome? (fun (f, i) => match f.work with
    | .land w => if w.sched = e then some (w, i) else none
    | _ => none)

/-- The early push of SAPIN's instruction n and its knot, at the first chunk (Table 7-6). They are the exception to the order of R129. -/
def earlyPush (s : State) (n : Nat) (w : LandWork) : State :=
  if w.early && w.landed == 0 then
    let s := match w.pa with
      | some hq => pushHandle s 1 n hq w.dst
      | none => s
    if s.core.halted then s else doneKnot s 1 w.ek
  else s

/-- One waiting chunk of a port landed into the slot of its SAPIN.LAND. -/
def landChunk (s : State) (c : Chunk) (e : Nat) (w : LandWork) (i : Nat) : State :=
  let s := poolWrite s (slotBase w.dst + 4096 * c.index) c.data
  let s := { s with sap := { s.sap with
      waiting := s.sap.waiting.erase c
      bytesIn := wrapAdd64 s.sap.bytesIn c.data.length
      landNext := if c.last then setAt s.sap.landNext c.port (getAt 0 s.sap.landNext c.port + 1) else s.sap.landNext } }
  let s := setWork s 1 i (fun f => { f with work := .land { w with landed := w.landed + 1, sched := e }, finished := c.last })
  earlyPush (returnCredit s c.port 18) (((queueOf s 1).flights[i]?).map (·.index) |>.getD 0) w

/-- The waiting chunks of a port landed in order, as many as n. -/
def landPort (port : Nat) : Nat → State → State
  | 0, s => s
  | n + 1, s =>
    if s.core.halted then s
    else match s.sap.waiting.find? (fun c => c.port == port), landEntry s port 0 with
      | some c, some (_, e) =>
        match landFlight s e with
        | some (w, i) => landPort port n (landChunk s c e w i)
        | none => s
      | _, _ => s

/-- All that can land on a port, what that finishes, and what can then be forwarded. -/
def landFlow (s : State) (port : Nat) : State :=
  let s := landPort port s.sap.waiting.length s
  sapFlow (if s.core.halted then s else retireAll s 1)

def landInsn (s : State) (w : Insn) : State :=
  issue s 1 w [0x20] (fun s => unlessSkipped s 1 w (fun s =>
    let dst := fieldOf w 41 32
    withFree s 1 dst (fun s =>
      let early := bitAt w.toNat 47
      let pushes := if early then [pushField w 48] else [pushField w 42, pushField w 48]
      let i := fieldOf w 31 16
      let work := Work.land { sched := i, dst := dst, pa := pushField w 42, early := early, ek := knotField w 53, landed := 0 }
      let s := writeSlot s w dst none [] false
      let fl := { flightOf s 1 w none [] false with
                    pushes := pushes.filterMap (fun p => p.map (fun hq => (hq, dst))), work := work }
      landFlow (start s 1 fl) (((schedAt s i).map (·.port)).getD 0))))

/-- SAPIN_LAND (R215) -/
def execSapinLand (w : Insn) (s : State) : Host.Outcome State Fault Refusal := .next (landInsn s w)

/-- Whether a land entry has landed its last chunk. -/
def landDone (s : State) (i : Nat) (e : SchedEntry) : Bool :=
  match runningPlan s with
  | some p => ((landEntries p e.port).take (getAt 0 s.sap.landNext e.port)).any (fun x => x.2 == i)
  | none => false

/-- A land entry's OFFSET passes: SAP_LATE unless its last chunk has landed (R222). -/
def sapLate (s : State) (i : Nat) : State :=
  match schedAt s i with
  | none => s
  | some e =>
    if e.kind ≠ 2 || !beforeBoundary s (offsetNs s e.offset) then s
    else
      let s := advanceTo s (offsetNs s e.offset)
      if landDone s i e then s else sapFault s 1 e.port i e.block s.tick.index

/-- SAP_LATE (R222) -/
def execSapLate (sched : Nat) (s : State) : Host.Outcome State Fault Refusal := .next (sapLate s sched)

/-! ### An accepted chunk (R149, R215, R223) -/

/-- A chunk acknowledged and discarded, counted for its port (R223). -/
def discardChunk (s : State) (port : Nat) : State :=
  returnCredit { s with sap := { s.sap with discards := setAt s.sap.discards port (getAt 0 s.sap.discards port + 1) } }
    port 18

/-- The PLAN_SET_ID that a unit of a tick must carry while a plan runs: for the next tick that of the plan active at the next boundary, the one armed for it if there is one; for any other tick that of the active plan (R149; 09, "Corners"). -/
def expectedPlan (s : State) (tick : Nat) : Option Nat :=
  match runningPlan s with
  | none => none
  | some p =>
    match s.core.standby with
    | some q => if s.core.armed && s.core.commitN == tick && tick == nextTick s then some q.setId else some p.setId
    | none => some p.setId

/-- Whether an arriving chunk belongs to the land entry that its port expects next: those of blocks that wait complete come first. -/
def chunkExpected (s : State) (c : Chunk) : Option (Bool × Nat) :=
  let ahead := (s.sap.waiting.filter (fun x => x.port == c.port && x.last)).length
  match landEntry s c.port ahead with
  | some (e, i) =>
    some (e.peer == c.src && e.block == c.block && (modelOf s e.model).modelId == c.modelId && c.tick == s.tick.index, i)
  | none => none

/-- A chunk accepted from a port. Where no plan runs it is discarded; one that raises a fault is discarded and counted like it (R223). -/
def takeChunk (s : State) (c : Chunk) : State :=
  match expectedPlan s c.tick with
    | some id =>
      if id ≠ c.setId then planSplit (discardChunk s c.port) c.src c.setId
      else match chunkExpected s c with
        | some (true, _) => landFlow { s with sap := { s.sap with waiting := s.sap.waiting ++ [c] } } c.port
        | some (false, i) => sapFault (discardChunk s c.port) 2 c.port i c.block s.tick.index
        | none =>
          let p := drawRandom (discardChunk s c.port) 65536
          sapFault p.2 2 c.port p.1 c.block s.tick.index
    | none => discardChunk s c.port

end Sys2Proof.Machine
end

