-- ==== Sys2Proof/Machine/Commit.lean ====
section
/-! DEFINITION. The commit of a plan between chips: arming, mismatch, timeout and abort (R147, R286). -/

namespace Sys2Proof.Machine

/-- A prefetch record's cancel accepted: it takes effect at the next boundary, or at once while no boundaries run (R286). -/
def askCancel (s : State) (r : PrefetchRec) : PrefetchRec :=
  if timeRuns s then { r with cancelAsked := true } else { r with cancelAsked := true, cancelling := true }

/-- The plan of the standby buffer is withdrawn: running records that FOLLOW bound to it are cancelled (R286). -/
def planWithdrawn (s : State) (id : Nat) : State :=
  { s with lib := { s.lib with recs := s.lib.recs.map (fun r => if r.running && r.follow == some id then askCancel s r else r) } }

def standbyId (s : State) : Nat := (s.core.standby.map (·.setId)).getD 0

/-- The members that the standby plan's commit concerns. -/
def standbyPartners (s : State) : List Nat :=
  match s.core.standby with
  | some p => partners s p
  | none => []

/-- COMMIT_CHECK's body: PLAN_SET_ID, N, QUARTERS (Table 12-5). -/
def checkBody (s : State) (n : Nat) : List Byte :=
  leBytes 8 (standbyId s) ++ leBytes 6 n ++ leBytes 1 ((s.core.standby.map (·.quarters)).getD 0)

/-- COMMIT_ABORT's body. -/
def abortBody (s : State) (n : Nat) : List Byte := leBytes 8 (standbyId s) ++ leBytes 6 n

def sendAborts (s : State) (n : Nat) : State := sendEach s (standbyPartners s) 0x22 (abortBody s n)

/-- The commit in progress: its descriptor and N. -/
def commitRuns (s : State) : Option (Desc × Nat) :=
  match s.admin with
  | some { d := d, work := .commit n } => some (d, n)
  | _ => none

/-- The commit fails and the members are released; the plan stays loaded. -/
def commitFail (s : State) (d : Desc) (n status : Nat) : State :=
  adminDone (sendAborts s n) d status 0

/-- Whether a check heard matches the standby plan's commit at N. -/
def checkMatches (s : State) (n : Nat) (c : CommitSeen) : Bool :=
  c.commitId == standbyId s && c.n == n && some c.quarters == s.core.standby.map (·.quarters)

/-- The tenants whose FIXED_SLOT is 1: it takes effect at a PLAN_COMMIT that is accepted (R94, R104). -/
def fixedTenants (s : State) : List Nat := (s.ten.recs.filter (fun x => x.2.fixedSlot)).map (·.1)

/-- The plan of the standby buffer armed for boundary n. -/
def arm (s : State) (n : Nat) : State :=
  let ps := standbyPartners s
  { s with core := { s.core with
      standby := s.core.standby.map (fun p => { p with fixedFor := fixedTenants s }), armed := true, commitN := n
      heard := s.core.heard.filter (fun c => !ps.contains c.chip) } }

/-- The commit in progress judged on the checks heard: mismatch, armed, or still waiting. -/
def commitEval (s : State) : State :=
  match commitRuns s with
  | none => s
  | some (d, n) =>
    let ps := standbyPartners s
    if s.core.heard.any (fun c => ps.contains c.chip && !checkMatches s n c) then commitFail s d n 0xCD
    else if ps.all (fun m => s.core.heard.any (fun c => c.chip == m)) then
      adminDone (arm s n) d 0 0
    else s

/-- Checks heard for a commit whose boundary N − 1 has passed can arm nothing: they are dropped. -/
def dropStaleChecks (s : State) (k : Nat) : State :=
  { s with core := { s.core with heard := s.core.heard.filter (fun c => decide (k + 1 < c.n)) } }

/-- COMMIT_TIMEOUT when boundary N − 1 passes with the plan unarmed (R147). -/
def commitTimeout (s : State) (k : Nat) : State :=
  dropStaleChecks (match commitRuns s with
    | some (d, n) => if n ≤ k + 1 then commitFail (planWithdrawn s (standbyId s)) d n 0xCE else s
    | none => s) k

/-- An armed plan returns to loaded; PLAN_ABORTED is posted (R147). -/
def disarm (s : State) : State :=
  let id := standbyId s
  let s := planWithdrawn { s with core := { s.core with armed := false, commitN := 0 } } id
  postT0 s 0x0304 3 (id * 2 ^ 48)

/-- A COMMIT_CHECK kept for the chip that sent it, the latest in place of an earlier one. -/
def hearCheck (s : State) (c : CommitSeen) : State :=
  { s with core := { s.core with heard := s.core.heard.filter (fun x => x.chip != c.chip) ++ [c] } }

/-- A COMMIT_ABORT of a chip: its check is forgotten, and a plan armed with it is disarmed before N. -/
def takeAbort (s : State) (chip id n : Nat) : State :=
  let s := { s with core := { s.core with
      heard := s.core.heard.filter (fun c => !(c.chip == chip && c.commitId == id && c.n == n)) } }
  if s.core.armed && standbyId s == id && s.core.commitN == n && (standbyPartners s).contains chip &&
      decide (s.tick.index < n) then disarm s else s

end Sys2Proof.Machine
end

