-- ==== Sys2Proof/Machine/Links.lean ====
section
/-! DEFINITION. The Trelhal ports: training, discovery, keepalive, arrival of units, acknowledgement, replay, DRAIN
and the messages between chips (12: R61, R147, R179, R184, R234 to R249). -/

namespace Sys2Proof.Machine

/-! ### Port state -/

/-- A port's new state, posted as PORT_STATE when it changes (R256). -/
def setPortState (s : State) (p : Nat) (st : PortState) : State :=
  if (portOf s p).st = st then s
  else postT0 (modPort s p (fun x => { x with st := st })) 0x0501 5 (p + st.code * 2 ^ 8)

/-- A port whose hop is new: no credits, no LSNs, no units (R237). -/
def clearHop (x : Port) : Port :=
  { x with txCredit := 0, owed := 0, lsnTx := [], lsnRx := [], nakSent := [], units := [] }

/-- Whether the chip answers as serviceable: HBM_OK (R68, R246). -/
def serviceable (s : State) : Bool := s.boot.hbmOk

/-- HELLO's body (Table 12-5). -/
def helloBody (s : State) (p attempt : Nat) : List Byte :=
  leBytes 8 s.fuse.serial ++ leBytes 1 p ++ leBytes 1 attempt ++ leBytes 1 (b2n (serviceable s) + b2n s.link.valid * 2) ++
    [0xA1] ++ leBytes 2 (if s.link.valid then s.link.chipId else 0) ++ leBytes 2 640

/-- The backoff after HELLO number i: between b / 2 and b, b = min (2^(i+1), 32) ms, in µs (R61). -/
def helloWait (s : State) (i : Nat) : Nat × State :=
  let b := min (2 ^ (i + 1)) 32
  let d := drawRandom s (b * 1000 - b * 500 + 1)
  (b * 500 + d.1, d.2)

/-- HELLO sent on a port, with the wait that follows it. -/
def sendHello (s : State) (p i attempt : Nat) : State :=
  let s := sendFree s p (hopMessage s 0x40 (helloBody s p attempt))
  let w := helloWait s i
  modPort w.2 p (fun x => { x with helloI := i, helloWait := w.1, attempt := attempt })

/-- The SERDES reference clock that feeds a port (R51). -/
def portClock (s : State) (p : Nat) : Bool := if p < 4 then s.pin.serdesA else s.pin.serdesB

/-- TEST_MODE (Table 2-5). -/
def testMode (s : State) : Bool := bitAt s.boot.strap.toNat 7

/-- PD_LINKn gated or not (R293, R301). -/
def gatePort (s : State) (p : Nat) (gated : Bool) : State :=
  let bit : BitVec 19 := BitVec.ofNat 19 (2 ^ (8 + p))
  let s := modPort s p (fun x => { x with gated := gated })
  { s with pwr := { s.pwr with domains := if gated then s.pwr.domains &&& ~~~bit else s.pwr.domains ||| bit } }

/-- Training of a port starts. Its domain is on then, also where the governor gated it before (log 88). -/
def trainingStart (s : State) (p : Nat) : State :=
  let x := portOf s p
  if decide (p < 8) && s.boot.phase == .firmware && mainOn s && x.st == .dark && !x.settled && portClock s p && !testMode s
  then setPortState (gatePort s p false) p .training else s

/-- PORT_TRAINING_START (R61) -/
def execPortTrainingStart (port : Nat) (s : State) : Host.Outcome State Fault Refusal := .next (trainingStart s port)

/-- A port trains: DISCOVERY, and the first HELLO. -/
def portTrained (s : State) (p : Nat) : State :=
  if (portOf s p).st ≠ .training then s
  else
    let s := setPortState (modPort s p (fun x => { clearHop x with settled := true })) p .discovery
    sendHello s p 0 0

/-- PORT_TRAINED (R61) -/
def execPortTrained (port : Nat) (s : State) : Host.Outcome State Fault Refusal := .next (portTrained s port)

def trainingTimeout (s : State) (p : Nat) : State :=
  if (portOf s p).st ≠ .training then s
  else chipFault (setPortState (modPort s p (fun x => { x with settled := true })) p .dark) 9

/-- PORT_TRAINING_TIMEOUT (R61) -/
def execPortTrainingTimeout (port : Nat) (s : State) : Host.Outcome State Fault Refusal := .next (trainingTimeout s port)

/-- HELLO again when the backoff has elapsed: i rises to at most 4, ATTEMPT saturates at 255. -/
def helloAgain (s : State) (p : Nat) : State :=
  let x := portOf s p
  if x.st ≠ .discovery then s else sendHello s p (min (x.helloI + 1) 4) (satAdd8 x.attempt)

/-- HELLO (R61) -/
def execHello (port : Nat) (s : State) : Host.Outcome State Fault Refusal := .next (helloAgain s port)

/-! ### Arrival of a unit (R234, R236, R61) -/

/-- A unit that fails R234: counted, and noted once per port and tick. -/
def discardUnit (s : State) (p : Nat) (flits : Nat) : State :=
  let x := portOf s p
  let s := modPort s p (fun x => { x with discard := satAdd x.discard 1, discardLogged := true, owed := x.owed + flits })
  if x.discardLogged then s else note s 2 p

/-- A unit other than a discovery message on a port in DISCOVERY: discarded, noted once per port (R61). -/
def discoveryDiscard (s : State) (p : Nat) : State :=
  if (portOf s p).discoveryLogged then s
  else note (modPort s p (fun x => { x with discoveryLogged := true })) 1 p

/-- Credits that a unit brings back in its head and tail (R236). -/
def creditsIn (u : RawUnit) (h : Head) : Nat := h.credit + (if isChunk u then leAt u.tail 216 2 % 1024 else 0)

/-- Whether a port hears units at all: past training and not MISCABLED. -/
def portHears (s : State) (p : Nat) : Bool :=
  mainOn s && decide (p < 8) &&
    match (portOf s p).st with
    | .discovery => true
    | .active => true
    | .drain => true
    | _ => false

/-- A unit whose message code is `msg` (0 for a chunk) taken by a port: discarded by R61 or R234, or handed on with its head. -/
def receive (s : State) (p : Nat) (u : RawUnit) (msg : Nat) (body : Head → State → State) : State :=
  let h := decodeHead u.head
  if !portHears s p then s
  else if (portOf s p).st == .discovery && h.msg != 0x41 then discoveryDiscard s p
  else if headFault u then discardUnit s p (unitFlits u)
  else if h.msg ≠ msg then s
  else
    let s := modPort s p (fun x => { x with txCredit := x.txCredit + creditsIn u h, carried := x.carried || busyMsg msg })
    sapFlow (pump (body h s) p)

/-- A control message that flow control counts: its flit leaves the receive buffer when it is taken (R236). -/
def receiveMsg (s : State) (p : Nat) (u : RawUnit) (msg : Nat) (body : Head → State → State) : State :=
  receive s p u msg (fun h s => body h (returnCredit s p 1))

/-! ### LSNs (R237, R238) -/

def sendAck (s : State) (p peer lsn : Nat) : State := sendPlain s p peer 0x10 (leBytes 2 lsn)

/-- NAK of the expected LSN, at most once per 8.192 µs per peer. -/
def sendNak (s : State) (p peer lsn reason : Nat) : State :=
  let x := portOf s p
  let quiet := match tabFind x.nakSent peer with
    | some t => decide (s.time.logNs < t + 8192)
    | none => false
  if quiet then s
  else
    let s := modPort s p (fun x => { x with nakSent := tabSet peer s.time.logNs x.nakSent })
    sendPlain s p peer 0x11 (leBytes 2 lsn ++ leBytes 1 reason)

/-- RETRY_AFTER with INTERVAL 1,000 µs (R240). -/
def sendRetryAfter (s : State) (p peer lsn : Nat) : State :=
  let s := modPort s p (fun x => { x with retry := satAdd x.retry 1 })
  sendPlain s p peer 0x12 (leBytes 2 lsn ++ leBytes 2 1000)

/-- A unit that carries an LSN: applied and acknowledged when it is the expected one and whole; acknowledged again when a duplicate; NAKed otherwise. A port in DRAIN answers every new unit with RETRY_AFTER (R240). `drop` is what becomes of a unit that is not accepted. -/
def acceptLsn (s : State) (p : Nat) (u : RawUnit) (h : Head) (damaged : Bool) (drop apply : State → State) : State :=
  let e := tabGet 0 (portOf s p).lsnRx h.src
  let d := lsnAhead e h.seq
  if 2048 ≤ d then sendAck (drop s) p h.src ((e + 4095) % 4096)
  else if (portOf s p).st = .drain then sendRetryAfter (drop s) p h.src h.seq
  else if d ≠ 0 || damaged then sendNak (drop s) p h.src e (if damaged then 1 else 2)
  else
    let s := modPort s p (fun x => { x with lsnRx := tabSet h.src ((e + 1) % 4096) x.lsnRx
                                            bytesRx := wrapAdd64 x.bytesRx (payloadBytes u) })
    sendAck (apply s) p h.src h.seq

/-- A tagged message received on a port. -/
def receiveTagged (s : State) (p : Nat) (u : RawUnit) (msg : Nat) (body : Head → State → State) : State :=
  receiveMsg s p u msg (fun h s => acceptLsn s p u h false id (body h))

/-! ### Chunks and knot signals -/

def chunkOf (p : Nat) (u : RawUnit) (h : Head) : Chunk :=
  { port := p, src := h.src, tick := h.tick, setId := h.plan, modelId := chunkModel h, block := chunkBlock h
    index := chunkIndex h, last := chunkLast h, data := u.payload.take (64 * chunkLen h) }

def chunkIn (s : State) (p : Nat) (u : RawUnit) : State :=
  receive s p u 0 (fun h s =>
    acceptLsn s p u h (chunkDamaged u) (fun s => returnCredit s p 18) (fun s => takeChunk s (chunkOf p u h)))

/-- CHUNK (R238, R149, R215, R223) -/
def execChunk (port : Nat) (u : RawUnit) (s : State) : Host.Outcome State Fault Refusal := .next (chunkIn s port u)

/-- A remote knot signal taken from a port (R149, R179): one for the tick of a boundary that was skipped is discarded without a fault. -/
def takeSignal (s : State) (p : Nat) (h : Head) : State :=
  let k := bodyAt h 24 1
  let a := bodyAt h 26 2
  if (runningPlan s).isNone then
    if (portOf s p).noPlanLogged then s else note (modPort s p (fun x => { x with noPlanLogged := true })) 7 p
  else if expectedPlan s h.tick ≠ some h.plan then planSplit s h.src h.plan
  else if h.tick = s.tick.index then applyAmount s k a (8 + p)
  else if h.tick = nextTick s then
    let held := { port := p, src := h.src, knot := k, amount := a, setId := h.plan, tick := h.tick : HeldSignal }
    { s with knot := { s.knot with heldSignals := s.knot.heldSignals ++ [held] } }
  else if s.tick.index < h.tick && h.tick < nextTick s then s
  else knotFault s 3 k (8 + p) s.tick.index

def signalIn (s : State) (p : Nat) (u : RawUnit) : State := receiveTagged s p u 0x20 (fun h s => takeSignal s p h)

/-- KNOT_SIGNAL_MESSAGE (R179) -/
def execKnotSignalMessage (port : Nat) (u : RawUnit) (s : State) : Host.Outcome State Fault Refusal := .next (signalIn s port u)

/-! ### Acknowledgement and replay (R238, R239, R241) -/

def ackIn (s : State) (p : Nat) (u : RawUnit) : State :=
  receiveMsg s p u 0x10 (fun h s =>
    let lsn := bodyAt h 24 2
    let x := portOf s p
    ackUnits (setPort s p { x with units := x.units.filter (fun v => !ackCovers h.src lsn v) }) p
      (x.units.filter (ackCovers h.src lsn)))

/-- ACK (R238, R239) -/
def execAck (port : Nat) (u : RawUnit) (s : State) : Host.Outcome State Fault Refusal := .next (ackIn s port u)

def nakIn (s : State) (p : Nat) (u : RawUnit) : State :=
  receiveMsg s p u 0x11 (fun h s =>
    replayFrom (modPort s p (fun x => { x with naks := satAdd x.naks 1 })) p h.src (bodyAt h 24 2) true)

/-- NAK (R239) -/
def execNak (port : Nat) (u : RawUnit) (s : State) : Host.Outcome State Fault Refusal := .next (nakIn s port u)

/-- A unit that the plan sent: a chunk or a KNOT_SIGNAL. -/
def planUnit (v : OutUnit) : Bool := v.msg == 0 || v.msg == 0x20

/-- The ACTIVE ports in ascending order from the one after p, and p last. -/
def portsAfter (s : State) (p : Nat) : List Nat :=
  (activePorts s).filter (fun q => decide (p < q)) ++ (activePorts s).filter (fun q => decide (q ≤ p))

/-- A steward message resent on the next ACTIVE port that has not refused it; it fails when there is none (R241). -/
def resend (s : State) (p : Nat) (v : OutUnit) : State :=
  match (portsAfter s p).find? (fun q => !v.refused.contains q) with
  | some q =>
    let u := message s v.msg v.peer (decodeHead v.u.head).body
    pump (modPort s q (fun x => { x with units := x.units ++ [{ outUnit v.peer v.msg u true none with refused := v.refused }] })) q
  | none => s

/-- A unit that its port cannot deliver: a link fault for a plan's unit, another port for a steward message. -/
def undeliverable (s : State) (p cause : Nat) (v : OutUnit) : State :=
  let s := modPort s p (fun x => { x with units := x.units.erase v })
  if planUnit v then linkFault s cause p v.peer else resend s p { v with refused := p :: v.refused }

/-- The oldest unacknowledged unit to a peer replayed, or replay exhausted after its fourth transmission. -/
def replayTimeout (s : State) (p peer : Nat) : State :=
  if !carries s p then s
  else match unackedTo (portOf s p) peer with
    | [] => s
    | v :: _ =>
      if v.retryWait then s
      else if v.tries < 4 then replayFrom s p peer v.lsn true
      else pump (undeliverable s p 4 v) p

/-- REPLAY_TIMEOUT (R239) -/
def execReplayTimeout (port peer : Nat) (s : State) : Host.Outcome State Fault Refusal := .next (replayTimeout s port peer)

/-- The transmitted unit of an LSN waits for its INTERVAL; its tag is kept. -/
def retryIn (s : State) (p : Nat) (u : RawUnit) : State :=
  receiveMsg s p u 0x12 (fun h s =>
    modPort s p (fun x => { x with units := x.units.map (fun v =>
      if v.peer == h.src && v.tries != 0 && v.tag != tagNone && v.lsn == bodyAt h 24 2 then { v with retryWait := true } else v) }))

/-- RETRY_AFTER (R241) -/
def execRetryAfter (port : Nat) (u : RawUnit) (s : State) : Host.Outcome State Fault Refusal := .next (retryIn s port u)

def retryExpiry (s : State) (p peer : Nat) : State :=
  if !carries s p then s
  else match (unackedTo (portOf s p) peer).find? (·.retryWait) with
    | some v => replayFrom s p peer v.lsn false
    | none => s

/-- RETRY_AFTER_EXPIRY (R241) -/
def execRetryAfterExpiry (port peer : Nat) (s : State) : Host.Outcome State Fault Refusal := .next (retryExpiry s port peer)

/-- The next ACTIVE port after p whose plane a chip is not reported down on (R263). -/
def reaches (s : State) (chip p : Nat) : Bool :=
  match tabFind s.link.up chip with
  | some m => m.toNat.testBit p
  | none => true

/-- The lowest ACTIVE port whose plane reaches a chip and which is not barred (R263). -/
def portTo (s : State) (chip : Nat) : Option Nat :=
  (activePorts s).find? (fun p => reaches s chip p && !s.time.barred.contains p)

/-- SYNC_REQ to the parent; T1 is written as it leaves (R262, R263). -/
def sendSync (s : State) (chip p xid : Nat) : State :=
  let s := { s with time := { s.time with parent := some (chip, p), request := some xid } }
  sendPlain s p chip 0x51 (leBytes 8 s.time.now ++ leBytes 4 0 ++ leBytes 4 xid)

/-- The parent is UNREACHABLE on a port: SYNC_REQ goes on the next one. Where none is left, every port may be tried again from the next SYNC_REQ on (R263; log 89). -/
def moveSync (s : State) (p : Nat) : State :=
  let s := { s with time := { s.time with barred := insertNat p s.time.barred } }
  match s.time.parent, s.time.request with
  | some (chip, _), some xid =>
    match portTo s chip with
    | some q => sendSync s chip q xid
    | none => { s with time := { s.time with barred := [] } }
  | _, _ => s

def unreachableIn (s : State) (p : Nat) (u : RawUnit) : State :=
  receiveMsg s p u 0x46 (fun h s =>
    let dst := bodyAt h 24 2
    let lsn := bodyAt h 26 2
    match (unackedTo (portOf s p) dst).find? (fun v => v.lsn == lsn) with
    | some v => undeliverable s p 3 v
    | none => if lsn = 0 && s.time.parent == some (dst, p) then moveSync s p else s)

/-- UNREACHABLE (R241, R249, R263) -/
def execUnreachable (port : Nat) (u : RawUnit) (s : State) : Host.Outcome State Fault Refusal := .next (unreachableIn s port u)

/-! ### Keepalive, hop down, DRAIN (R236, R240) -/

/-- KEEPALIVE (R236): its credits count; the hop stays up. -/
def execKeepalive (port : Nat) (u : RawUnit) (s : State) : Host.Outcome State Fault Refusal :=
  .next (receiveMsg s port u 0x01 (fun _ s => s))

/-- KEEPALIVE goes out when credits allow; one that waits for them is enough. -/
def keepaliveSend (s : State) (p : Nat) : State :=
  if carries s p && !(portOf s p).units.any (fun v => v.msg == 0x01) then sendHop s p 0x01 [] else s

/-- KEEPALIVE_SEND (R236) -/
def execKeepaliveSend (port : Nat) (s : State) : Host.Outcome State Fault Refusal := .next (keepaliveSend s port)

/-- The active plan names a port in a schedule entry or a remote SIGNAL. -/
def planUses (s : State) (p : Nat) : Bool :=
  match s.core.active with
  | some a => (planPorts a).contains p
  | none => false

/-- The hop goes down: the port trains again; steward messages move on; a plan that uses the hop stops (R236, R241, R249). -/
def hopDown (s : State) (p : Nat) : State :=
  let x := portOf s p
  if 8 ≤ p || x.st = .dark || x.st = .training then s
  else
    let lost := x.units.filter (fun v => v.tag != tagNone && !planUnit v)
    let s := modPort s p (fun x => { clearHop x with downs := satAdd x.downs 1, helloI := 0 })
    let s := setPortState s p .training
    let s := lost.foldl (fun s v => resend s p v) s
    if planUses s p then linkFault s 1 p 0 else s

/-- HOP_DOWN (R236, R249) -/
def execHopDown (port : Nat) (s : State) : Host.Outcome State Fault Refusal := .next (hopDown s port)

/-- A draining port has no unit of its own outstanding and no chunk waiting (R240 step 3). -/
def portEmpty (s : State) (p : Nat) : Bool := (portOf s p).units.isEmpty && !s.sap.waiting.any (fun c => c.port == p)

/-- PORT_OFF takes one credit (R236). -/
def portOff (s : State) (p : Nat) : State :=
  if (portOf s p).st == .drain && portEmpty s p && decide (0 < (portOf s p).txCredit) then setPortState (sendFree (modPort s p (fun x => { x with txCredit := x.txCredit - 1 })) p (hopMessage s 0x45 [])) p .dark
  else s

/-- PORT_OFF (R240) -/
def execPortOff (port : Nat) (s : State) : Host.Outcome State Fault Refusal := .next (portOff s port)

/-- Send tags that a port holds. -/
def tagCount (x : Port) : Nat := (x.units.filter (fun v => v.tries != 0 && v.tag != tagNone)).length

def drainTimeout (s : State) (p : Nat) : State :=
  if (portOf s p).st == .drain && !(portEmpty s p && decide (0 < (portOf s p).txCredit)) then
    let n := tagCount (portOf s p)
    pump (postT0 (setPortState s p .active) 0x0506 5 (p + min n 255 * 2 ^ 8)) p
  else s

/-- DRAIN_TIMEOUT (R240) -/
def execDrainTimeout (port : Nat) (s : State) : Host.Outcome State Fault Refusal := .next (drainTimeout s port)

/-! ### Discovery (R246) -/

/-- PORT_MISCABLED posted and the port stopped. -/
def miscable (s : State) (p plane grove slot : Nat) : State :=
  postT0 (setPortState s p .miscabled) 0x0502 5 (p + plane * 2 ^ 8 + grove * 2 ^ 12 + slot * 2 ^ 16)

/-- Step 4: ID_CONFIRM, ACTIVE, LSNs at 0 and the partner's credits. -/
def confirm (s : State) (p credits : Nat) : State :=
  let s := setPortState (modPort s p (fun x => { clearHop x with txCredit := credits })) p .active
  sendHop s p 0x42 (leBytes 2 s.link.chipId ++ leBytes 1 (b2n (serviceable s)))

def helloAckIn (s : State) (p : Nat) (u : RawUnit) : State :=
  receive s p u 0x41 (fun h s =>
    if (portOf s p).st ≠ .discovery then s
    else
      let plane := bodyAt h 32 1
      let grove := bodyAt h 33 1
      let slot := bodyAt h 34 1
      let flags := bodyAt h 35 1
      let id := grove * 128 + slot
      let s := modPort s p (fun x => { x with lastGrove := grove, lastSlot := slot })
      if plane ≠ p || !bitAt flags 0 || bitAt flags 2 then miscable s p plane grove slot
      else if !s.link.valid then
        let s := { s with link := { s.link with chipId := id, valid := true } }
        confirm (postT0 s 0x0503 5 id) p (bodyAt h 36 2)
      else if id ≠ s.link.chipId then miscable s p plane grove slot
      else confirm s p (bodyAt h 36 2))

/-- HELLO_ACK (R246) -/
def execHelloAck (port : Nat) (u : RawUnit) (s : State) : Host.Outcome State Fault Refusal := .next (helloAckIn s port u)

/-! ### Messages between chips -/

def commitCheckIn (s : State) (p : Nat) (u : RawUnit) : State :=
  receiveTagged s p u 0x21 (fun h s =>
    commitEval (hearCheck s { chip := h.src, commitId := bodyAt h 24 8, n := bodyAt h 32 6, quarters := bodyAt h 38 1 }))

/-- COMMIT_CHECK (R147) -/
def execCommitCheck (port : Nat) (u : RawUnit) (s : State) : Host.Outcome State Fault Refusal := .next (commitCheckIn s port u)

def commitAbortIn (s : State) (p : Nat) (u : RawUnit) : State :=
  receiveTagged s p u 0x22 (fun h s => takeAbort s h.src (bodyAt h 24 8) (bodyAt h 32 6))

/-- COMMIT_ABORT (R147) -/
def execCommitAbort (port : Nat) (u : RawUnit) (s : State) : Host.Outcome State Fault Refusal := .next (commitAbortIn s port u)

/-- TICK_OVERRUN of a detecting chip (Table 9-5). -/
def overrunEvent (chip bitmap tick : Nat) : Ev :=
  evOf 0x0382 4 (chip % 2 ^ 11 + bitmap * 2 ^ 16 + tick % 2 ^ 48 * 2 ^ 48)

/-- A RING_STOP reaches a member not yet halted: halt, dump with CAUSE 2, TICK_OVERRUN; no message of its own (R184). The overrun tick is the one before the sender's, except for TIME_FAULT, which waits for no boundary (R267). -/
def takeRingStop (s : State) (h : Head) : State :=
  if s.core.halted || !(ringPartners s).contains h.src then s
  else
    let reason := bodyAt h 24 1
    let tick := if reason = 4 then s.tick.index else h.tick - 1
    raiseFault s 4 0 2 reason tick h.src (overrunEvent h.src (notEnded s) tick)

def ringStopIn (s : State) (p : Nat) (u : RawUnit) : State := receiveTagged s p u 0x23 (fun h s => takeRingStop s h)

/-- RING_STOP (R184) -/
def execRingStop (port : Nat) (u : RawUnit) (s : State) : Host.Outcome State Fault Refusal := .next (ringStopIn s port u)

/-- PEER_ACK (Table 12-5) on the port that the probe came by. -/
def answerProbe (s : State) (p : Nat) (h : Head) : State :=
  sendTagged s p h.src 0x31 (leBytes 4 (bodyAt h 24 4) ++
    leBytes 1 (b2n (serviceable s) + b2n s.core.active.isSome * 2) ++ [0, 0, 0] ++ leBytes 8 s.fuse.serial)

def peerProbeIn (s : State) (p : Nat) (u : RawUnit) : State := receiveTagged s p u 0x30 (fun h s => answerProbe s p h)

/-- PEER_PROBE (R248) -/
def execPeerProbe (port : Nat) (u : RawUnit) (s : State) : Host.Outcome State Fault Refusal := .next (peerProbeIn s port u)

/-- The PROBE_ID of a chip and port. -/
def probeId (chip port : Nat) : Nat := chip * 8 + port

/-- PEER_PROBE sent through a named port (R248). -/
def sendProbe (s : State) (q : Probe) : State := sendTagged s q.port q.chip 0x30 (leBytes 4 (probeId q.chip q.port))

/-- A probe that is settled: answered, or unanswered three times. -/
def probeDone (q : Probe) : Bool := q.answer.isSome || q.unreachable

/-- SLICE_SET completes when every pair is settled, with the first failing pair (R248). -/
def sliceEval (s : State) : State :=
  match s.admin with
  | some { d := d, work := .slice } =>
    if s.link.probes.any (fun q => !probeDone q) then s
    else
      let bad := s.link.probes.find? (fun q => q.answer != some true)
      let s := { s with link := { s.link with probes := [] } }
      match bad with
      | none => adminDone s d 0 0
      | some q => adminDone s d (if q.answer = none then 0xC2 else 0xC3) (q.chip + q.port * 2 ^ 16)
  | _ => s

def setProbe (s : State) (chip port : Nat) (g : Probe → Probe) : State :=
  { s with link := { s.link with probes := s.link.probes.map (fun q =>
      if q.chip = chip && q.port = port && !probeDone q then g q else q) } }

def peerAckIn (s : State) (p : Nat) (u : RawUnit) : State :=
  receiveTagged s p u 0x31 (fun h s =>
    let id := bodyAt h 24 4
    if id / 8 = h.src then
      sliceEval (setProbe s h.src (id % 8) (fun q => { q with answer := some (bitAt (bodyAt h 28 1) 0) }))
    else s)

/-- PEER_ACK (R248) -/
def execPeerAck (port : Nat) (u : RawUnit) (s : State) : Host.Outcome State Fault Refusal := .next (peerAckIn s port u)

/-- 100 µs with no PEER_ACK: the probe is sent again, or unreachable after three tries. -/
def probeTimeout (s : State) (chip port : Nat) : State :=
  match s.link.probes.find? (fun q => q.chip == chip && q.port == port && !probeDone q) with
  | none => s
  | some q =>
    if q.tries < 3 then sendProbe (setProbe s chip port (fun q => { q with tries := q.tries + 1 })) q
    else sliceEval (setProbe s chip port (fun q => { q with unreachable := true }))

/-- PEER_PROBE_TIMEOUT (R248) -/
def execPeerProbeTimeout (chip port : Nat) (s : State) : Host.Outcome State Fault Refusal := .next (probeTimeout s chip port)

end Sys2Proof.Machine
end

