-- ==== Sys2Proof/Machine/Dma.lean ====
section
/-! DEFINITION. The fields of ring 0 descriptors and the results of refused ones (Table 4-6, R81, R95, R105). -/

namespace Sys2Proof.Machine

/-! ### Descriptors of ring 0 (Table 4-6) -/

def dOpcode (d : Desc) : Nat := fieldOf d 7 0
def dStream (d : Desc) : Nat := fieldOf d 31 16
def dSeq (d : Desc) : Nat := fieldOf d 47 32
def dEou (d : Desc) : Bool := fieldOf d 48 48 == 1
def dLen (d : Desc) : Nat := fieldOf d 79 64
def dArg0 (d : Desc) : Nat := fieldOf d 191 128
def dArg1 (d : Desc) : Nat := fieldOf d 255 192
def dAddr (d : Desc) : Nat := fieldOf d 447 384
def dCookie (d : Desc) : Nat := fieldOf d 511 448

/-- The result of a descriptor, of one empty record, found in the current tick. -/
def resultOf (s : State) (fn : Nat) (d : Desc) (stream status : Nat) : Result :=
  { ord := 0, fn := fn, stream := stream, seq := dSeq d, opcode := dOpcode d, cookie := dCookie d, status := status
    tick := stampTick s, deferred := false, cls := 0, window := 0, entries := [] }

/-- Statuses that R105 counts. -/
def abuseStatus (st : Nat) : Bool := (decide (1 ≤ st) && decide (st ≤ 3)) || (decide (0x80 ≤ st) && decide (st ≤ 0xBF))

/-- The counts of intake k of a function: those of the open intake, or of the one that the last cut ended (R352). -/
def tallyOf (s : State) (fn k : Nat) : Tally :=
  let f := fnOf s fn
  if k < s.tick.intake then f.late.getD f.tally else f.tally

def modTally (s : State) (fn k : Nat) (g : Tally → Tally) : State :=
  modFn s fn (fun f => match f.late with
    | some t => if k < s.tick.intake then { f with late := some (g t) } else { f with tally := g f.tally }
    | none => { f with tally := g f.tally })

/-- A descriptor of intake k refused at validation: its result at once, and the counts of R95 and R105. -/
def refuse (s : State) (fn : Nat) (d : Desc) (k status : Nat) : State :=
  let s := modTally s fn k (fun t => { t with refused := t.refused + b2n (abuseStatus status)
                                              rateLimited := t.rateLimited + b2n (status == 0x83) })
  resultNow s (resultOf s fn d (dStream d) status)

end Sys2Proof.Machine
end

