-- ==== Sys2Proof/Machine/Admin.lean ====
section
/-! DEFINITION. Admin descriptors: their fields, the checks of R81 on them, and how one is taken from ring 3 (R81, R82;
Tables 4-8, 4-9, 5-5, 5-8, 14-4; 07, 09, 11, 12, 15, 16, 17 for each opcode's arguments). -/

namespace Sys2Proof.Machine

def aOpcode (d : Desc) : Nat := fieldOf d 7 0
def aLen (d : Desc) : Nat := fieldOf d 127 96
def aArg0 (d : Desc) : Nat := fieldOf d 255 192
def aArg1 (d : Desc) : Nat := fieldOf d 319 256
def aArg2 (d : Desc) : Nat := fieldOf d 383 320
def aAddr (d : Desc) : Nat := fieldOf d 447 384

/-- No argument and no buffer. -/
def aBare (d : Desc) : Bool := aArg0 d == 0 && aArg1 d == 0 && aArg2 d == 0 && aLen d == 0

/-- KEY_LOAD (Table 5-5, R97 step 1). -/
def keyLoadFields (d : Desc) : Bool :=
  let slot := aArg0 d % 512
  let wrap := bitsOf (aArg0 d) 18 16
  decide (slot ≤ 259) && bitsOf (aArg0 d) 15 9 == 0 && decide (aArg0 d < 2 ^ 19) && aArg1 d == 0 && aArg2 d == 0 &&
    (if wrap ≤ 3 then aLen d == 64 && slot != 256 + wrap else wrap == 7 && aLen d == 192 && decide (256 ≤ slot))

/-- KNOT_SIGNAL (09, R180 step 1). -/
def knotSignalFields (d : Desc) : Bool :=
  let k := bitsOf (aArg0 d) 5 0
  decide (k ≤ 47) && bitsOf (aArg0 d) 15 6 == 0 && decide (aArg0 d < 2 ^ 32) && remoteAmountOk k (bitsOf (aArg0 d) 31 16) &&
    decide (aArg1 d < 2 ^ 48) && aArg2 d == 0 && aLen d == 0

/-- LIB_PREFETCH (Table 14-4, R284 step 1). P is reserved unless SHP is set; cancel and unstage use ARG1[5:0] alone, with FIRST_PAGE ignored (log 40). -/
def prefetchFields (d : Desc) : Bool :=
  let a := aArg0 d
  let action := bitsOf a 31 30
  aLen d == 0 &&
  (if action = 0 then
    decide (a < 2 ^ 47) && bitsOf a 34 32 != 0 && (bitAt a 34 || bitsOf a 45 35 == 0) &&
      decide (aArg1 d < 2 ^ 48) && aArg1 d % 4096 == 0 && decide (aArg2 d < 2 ^ 56) && bitsOf (aArg2 d) 47 0 % 64 == 0 &&
      (bitAt a 33 || aArg2 d == 0)
  else action != 3 && decide (a < 2 ^ 32) && decide (aArg1 d < 64) && aArg2 d == 0)

/-- LOG_READ (17, "LOG_READ"). -/
def logReadFields (d : Desc) : Bool :=
  let n := aLen d
  decide (aArg0 d < 2 ^ 32) && decide (aArg1 d < 4) && aArg2 d == 0 &&
  (if aArg1 d = 0 then decide (64 ≤ n) && decide (n ≤ 262144)
   else if aArg1 d = 1 then decide (64 ≤ n) && decide (n ≤ 2 ^ 20)
   else if aArg1 d = 2 then n == 17408
   else decide (64 ≤ n) && decide (n ≤ 2 ^ 22))

/-- The argument and LEN rules of each opcode; none for a reserved opcode. -/
def adminArgs (d : Desc) : Option Bool :=
  let noArgs := aArg0 d == 0 && aArg1 d == 0 && aArg2 d == 0
  match aOpcode d with
  | 0x01 => some (aBare d)
  | 0x10 => some noArgs
  | 0x11 => some (decide (aArg0 d < 2 ^ 48) && aArg1 d == 0 && aArg2 d == 0 && aLen d == 0)
  | 0x12 => some (aBare d)
  | 0x20 => some (keyLoadFields d)
  | 0x21 => some (decide (aArg0 d ≤ 259) && aArg1 d == 0 && aArg2 d == 0 && aLen d == 0)
  | 0x22 => some (noArgs && aLen d == 64)
  | 0x23 => some (aArg0 d % 256 != 0 && decide (aArg0 d < 2 ^ 10) && bitsOf (aArg0 d) 9 8 != 3 && aArg1 d == 0 && aArg2 d == 0 && aLen d == 0)
  | 0x30 => some (knotSignalFields d)
  | 0x31 => some (decide (aArg0 d ≤ 1) && aArg1 d == 0 && aArg2 d == 0 && aLen d == 512)
  | 0x40 => some (decide (aArg0 d < 2 ^ 30) && decide (aArg1 d < 2 ^ 30) && aArg2 d == 0 && aLen d == 0)
  | 0x41 => some (decide (aArg0 d < 2 ^ 30) && decide (aArg1 d < 2 ^ 30) && aArg2 d == 0 && aLen d == 0)
  | 0x42 => some (prefetchFields d)
  | 0x50 => some (noArgs && aLen d == 64)
  | 0x60 => some (decide (aArg0 d < 2 ^ 25) && aArg1 d == 0 && aArg2 d == 0 && aLen d % 4096 == 0 && decide (4096 ≤ aLen d) && decide (aLen d ≤ 2 ^ 20))
  | 0x61 => some (decide (aArg0 d ≤ 2) && aArg1 d == 0 && aArg2 d == 0 && aLen d == 0)
  | 0x70 => some (decide (aArg0 d ≤ 1) && aArg1 d == 0 && aArg2 d == 0 && aLen d == 256)
  | 0x71 => some (aBare d)
  | 0x72 => some (logReadFields d)
  | 0x80 => some (noArgs && decide (64 ≤ aLen d))
  | _ => none

/-- R81 on an admin descriptor: 0, BAD_DESC or BAD_OPCODE. -/
def adminCheck (d : Desc) : Nat :=
  match adminArgs d with
  | none => 2
  | some ok =>
    if ok && fieldOf d 95 8 == 0 && fieldOf d 191 128 == 0 && aLen d % 64 == 0 && decide (aLen d ≤ 2 ^ 24) && aAddr d % 64 == 0 &&
      (aLen d != 0 || aAddr d == 0) then 0 else 1

/-- The admin descriptor fetched from ring 3 is carried out, one at a time (R82). -/
def admin (s : State) (d : Desc) (op : Nat) (body : State → State) : State :=
  match (fnOf s 0).adminFetched with
  | d' :: rest =>
    if d' = d && aOpcode d = op && s.admin.isNone && mainOn s && !resetDue s && !(fnOf s 0).resetting then
      body (modFn s 0 (fun f => { f with adminFetched := rest }))
    else s
  | [] => s

/-- An admin descriptor of an opcode whose ACTION is the one that the command names. -/
def adminAct (s : State) (d : Desc) (op : Nat) (is : Bool) (body : State → State) : State :=
  if is then admin s d op body else s

/-- A descriptor whose buffer read waits for a tag stays the next to be carried out (04, "What if every tag is quarantined?"). -/
def bufferWaits (s : State) (d : Desc) : State :=
  noteExhausted (modFn s 0 (fun f => { f with adminFetched := d :: f.adminFetched }))

/-- The buffer of an admin descriptor read (R87, R89): its bytes, or DMA_ERROR, or DMA_TIMEOUT with the tag reported in AER and quarantined. -/
def withBuffer (s : State) (d : Desc) (r : DmaRead) (body : List Byte → State → State) : State :=
  match freeReadTag s.host with
  | none => bufferWaits s d
  | some t =>
    let s := emit s (.dmaRead t (aAddr d) (aLen d) false (readTimeoutNs s))
    match r with
    | .ok bytes => body (padTo (aLen d) bytes) s
    | .error => adminDone s d 4 0
    | .timeout => adminDone (emit (setHost s { s.host with quarantine := tabSet t false s.host.quarantine }) (.aer t false)) d 5 0

/-- NOP completes with OK (Table 4-9). -/
def nopDesc (s : State) (d : Desc) : State := admin s d 1 (fun s => adminDone s d 0 0)

/-- NOP (R82) -/
def execNop (d : Desc) (s : State) : Host.Outcome State Fault Refusal := .next (nopDesc s d)

end Sys2Proof.Machine
end

