-- ==== Sys2Proof/Machine/Image.lean ====
section
/-! DEFINITION. Rantufy images: layout and validation (10: R190 to R196, R207, Table 10-8). The functions take the
bytes of an image from offset 0 up to BLOCKS_OFF. -/

namespace Sys2Proof.Machine

/-! ### The header (Table 10-1) -/

def imgLen (m : List Byte) : Nat := leAt m 8 8
def imgImageId (m : List Byte) : Nat := leAt m 24 8
def imgModelId (m : List Byte) : Nat := leAt m 32 4
def imgKeyId (m : List Byte) : Nat := leAt m 36 4
def imgNonce (m : List Byte) : List Byte := bytesAt m 40 12
def imgKind (m : List Byte) : Nat := leAt m 52 1
def imgTables (m : List Byte) : Nat := leAt m 53 1
def imgLayers (m : List Byte) : Nat := leAt m 54 2
def imgShards (m : List Byte) : Nat := leAt m 56 2
def imgBlocks (m : List Byte) : Nat := leAt m 60 4
def imgLayerOff (m : List Byte) : Nat := leAt m 64 8
def imgTableOff (m : List Byte) : Nat := leAt m 72 8
def imgShardOff (m : List Byte) : Nat := leAt m 80 8
def imgIndexOff (m : List Byte) : Nat := leAt m 88 8
def imgBlocksOff (m : List Byte) : Nat := leAt m 96 8
def imgStateLen (m : List Byte) : Nat := leAt m 104 4

/-- Step 1. -/
def imgMagicOk (m : List Byte) : Bool := m.take 4 == [0x52, 0x46, 0x59, 0x31] && leAt m 4 2 == 1 && leAt m 6 2 == 512

/-- Step 2. -/
def imgHdrCrcOk (m : List Byte) : Bool :=
  leAt m 16 4 == crc32c (bytesAt m 0 16 ++ [0, 0, 0, 0] ++ bytesAt m 20 492)

/-- Step 3, for the bytes of the published range. -/
def imgFieldOk (m : List Byte) (range : Nat) : Bool :=
  let model := imgKind m == 0
  zeroAt m 58 2 && zeroAt m 108 404 && decide (imgKind m ≤ 1) && imgImageId m != 0 && imgModelId m != 0 &&
    imgKeyId m != 0 && !zeroAt m 40 8 && zeroAt m 48 4 && decide (imgTables m ≤ 16) &&
    decide (1 ≤ imgLayers m) && decide (imgLayers m ≤ 4096) &&
    (if model then imgShards m == 2 else decide (4 ≤ imgShards m) && decide (imgShards m ≤ 2050)) &&
    decide (1 ≤ imgBlocks m) && decide (imgBlocks m ≤ 2 ^ 24) &&
    (if model then imgStateLen m % 64 == 0 && decide (64 ≤ imgStateLen m) && decide (imgStateLen m ≤ 2 ^ 24)
     else imgStateLen m == 0) &&
    imgLen m % 4096 == 0 && decide (imgLen m ≤ range)

/-- Step 4. -/
def imgSectionOk (m : List Byte) : Bool :=
  [imgLayerOff m, imgTableOff m, imgShardOff m, imgIndexOff m].all (fun o => o % 64 == 0) && imgBlocksOff m % 4096 == 0 &&
    decide (512 ≤ imgLayerOff m) && decide (imgLayerOff m + 32 * imgLayers m ≤ imgTableOff m) &&
    decide (imgTableOff m + 144 * imgTables m ≤ imgShardOff m) && decide (imgShardOff m + 16 * imgShards m ≤ imgIndexOff m) &&
    decide (imgIndexOff m + 16 * imgBlocks m ≤ imgBlocksOff m) && decide (imgBlocksOff m ≤ imgLen m)

/-- Step 5. -/
def imgMetaCrcOk (m : List Byte) : Bool :=
  leAt m 20 4 == crc32c (bytesAt m (imgLayerOff m) (imgBlocksOff m - imgLayerOff m))

/-! ### Shards and index (Tables 10-4, 10-5) -/

structure ImgShard where
  first : Nat
  count : Nat
  flags : Nat
  spare : Bool
  deriving DecidableEq, Repr

def imgShardAt (m : List Byte) (s : Nat) : ImgShard :=
  let a := imgShardOff m + 16 * s
  { first := leAt m a 4, count := leAt m (a + 4) 4, flags := leAt m (a + 8) 1, spare := zeroAt m (a + 9) 7 }

def ImgShard.present (x : ImgShard) : Bool := bitAt x.flags 0

structure ImgBlock where
  offset : Nat
  slen : Nat
  flags : Nat
  table : Nat
  elen : Nat
  ct : Nat
  deriving DecidableEq, Repr

def imgBlockAt (m : List Byte) (i : Nat) : ImgBlock :=
  let a := imgIndexOff m + 16 * i
  { offset := leAt m a 4, slen := leAt m (a + 4) 2, flags := leAt m (a + 6) 1, table := leAt m (a + 7) 1
    elen := leAt m (a + 8) 4, ct := leAt m (a + 12) 4 }

def ImgBlock.raw (b : ImgBlock) : Bool := bitAt b.flags 0
def ImgBlock.kind (b : ImgBlock) : Nat := bitsOf b.flags 3 1

/-! ### Layers (Tables 10-2, 10-3) -/

structure ImgLayer where
  prec : Nat
  flags : Nat
  inDim : Nat
  outDim : Nat
  first : Nat
  blocks : Nat
  spare : Bool
  deriving DecidableEq, Repr

def imgLayerAt (m : List Byte) (i : Nat) : ImgLayer :=
  let a := imgLayerOff m + 32 * i
  { prec := leAt m a 1, flags := leAt m (a + 1) 1, inDim := leAt m (a + 4) 4, outDim := leAt m (a + 8) 4
    first := leAt m (a + 12) 4, blocks := leAt m (a + 16) 4, spare := zeroAt m (a + 2) 2 && zeroAt m (a + 20) 12 }

def imgLayerList (m : List Byte) : List ImgLayer := (List.range (imgLayers m)).map (imgLayerAt m)

/-- Weight blocks of a layer (Table 10-3). -/
def ImgLayer.weights (l : ImgLayer) : Nat :=
  if l.prec = 0 then 16 * ceilDiv l.outDim 2048 * ceilDiv l.inDim 4096
  else if l.prec ≤ 4 then 2 * ceilDiv l.outDim 2048 * ceilDiv l.inDim 512 * l.prec
  else if l.prec = 5 then ceilDiv l.outDim 64 * ceilDiv l.inDim 512
  else ceilDiv l.outDim 64 * ceilDiv l.inDim 1024

/-- Scale blocks of a layer (Table 10-3). -/
def ImgLayer.scales (l : ImgLayer) : Nat :=
  if l.prec ≤ 4 then ceilDiv (ceilDiv l.outDim 2048 * max 1 l.prec) 16 else 0

/-- A layer entry by itself, at place i of n (R193, R194). -/
def imgLayerOk (model : Bool) (count0 n i : Nat) (l : ImgLayer) : Bool :=
  let first := bitAt l.flags 1
  let last := bitAt l.flags 2
  decide (l.prec ≤ 6) && decide (l.flags < 8) && l.spare && decide (1 ≤ l.inDim) && decide (l.inDim ≤ 65536) &&
    decide (1 ≤ l.outDim) && decide (l.outDim ≤ 2 ^ 24) &&
    (if model then first == (i == 0) && last == (i + 1 == n) else !first && !last) &&
    (!(first || last || bitAt l.flags 0) || decide (5 ≤ l.prec)) &&
    l.blocks == l.weights + l.scales && decide (l.first + l.blocks ≤ count0)

def layersMeet (a b : ImgLayer) : Bool := decide (a.first < b.first + b.blocks) && decide (b.first < a.first + a.blocks)

/-- Step 6. Layers that lie in shard 0 without overlap fill it exactly when their counts add up to its COUNT. -/
def imgLayersOk (m : List Byte) : Bool :=
  let ls := imgLayerList m
  let c := (imgShardAt m 0).count
  ls.zipIdx.all (fun e => imgLayerOk (imgKind m == 0) c ls.length e.2 e.1) &&
    ls.zipIdx.all (fun e => (ls.take e.2).all (fun a => !layersMeet a e.1)) &&
    ls.foldl (fun a l => a + l.blocks) 0 == c

/-- Step 7. -/
def imgTablesOk (m : List Byte) : Bool :=
  (List.range (imgTables m)).all (fun i =>
    let t := bytesAt m (imgTableOff m + 144 * i) 144
    zeroAt t 136 8 && idzilOk (idzilLengths t))

/-- The entries of the shard directory. -/
def imgShardList (m : List Byte) : List ImgShard := (List.range (imgShards m)).map (imgShardAt m)

/-- Shards that run on from a block index; the index after the last. -/
def shardsRun : Nat → List ImgShard → Option Nat
  | n, [] => some n
  | n, x :: t => if x.first = n then shardsRun (n + x.count) t else none

/-- Step 8. -/
def imgShardsOk (m : List Byte) : Bool :=
  let xs := imgShardList m
  xs.all (fun x => decide (x.flags < 2) && x.spare) && shardsRun 0 xs == some (imgBlocks m) &&
    decide (1 ≤ (imgShardAt m 0).count) &&
    (imgShardAt m 1).count == (if imgKind m = 0 then ceilDiv (imgStateLen m) 65408 else 0)

/-- The KIND that block i of shard s must have. -/
def imgKindOf (ls : List ImgLayer) (s i : Nat) : Nat :=
  if s = 1 then 3
  else if 2 ≤ s then 4
  else match ls.find? (fun l => decide (l.first ≤ i) && decide (i < l.first + l.blocks)) with
    | some l => if i < l.first + l.weights then (if l.prec ≤ 4 then 0 else 2) else 1
    | none => 5

/-- An index entry by itself, for block i of shard s. -/
def imgEntryOk (m : List Byte) (ls : List ImgLayer) (s i : Nat) (x : ImgShard) : Bool :=
  let b := imgBlockAt m i
  decide (b.flags < 16) && decide (b.ct < 2 ^ 17) && b.kind == imgKindOf ls s i &&
    (if b.raw then b.table == 0 else decide (b.table < imgTables m)) &&
    decide (1 ≤ b.ct) && decide (b.ct ≤ 65408) && decide (1 ≤ b.elen) && decide (b.elen ≤ 65536) &&
    b.slen == 2 + ceilDiv b.ct 64 && (!b.raw || b.elen == b.ct) &&
    (s != 1 || b.elen == min 65408 (imgStateLen m - 65408 * (i - x.first))) &&
    (x.present || b.offset == 0)

/-- The end of block i in 64-byte units. -/
def imgBlockEnd (m : List Byte) (i : Nat) : Nat := (imgBlockAt m i).offset + (imgBlockAt m i).slen

/-- Offsets of n blocks from i on, of a present shard: contiguous after the first. -/
def imgRunOk (m : List Byte) (i n : Nat) : Bool :=
  (rangeFrom (i + 1) (n - 1)).all (fun j => (imgBlockAt m j).offset == imgBlockEnd m (j - 1))

/-- Shards in order: each present one begins at or after the end of those before it, and all within IMAGE_LEN. -/
def imgOrderOk (m : List Byte) : Nat → List ImgShard → Bool
  | _, [] => true
  | low, x :: t =>
    if !x.present || x.count = 0 then imgOrderOk m low t
    else decide (low ≤ (imgBlockAt m x.first).offset) && imgRunOk m x.first x.count &&
      decide (64 * imgBlockEnd m (x.first + x.count - 1) ≤ imgLen m) && imgOrderOk m (imgBlockEnd m (x.first + x.count - 1)) t

/-- Step 9. -/
def imgIndexOk (m : List Byte) : Bool :=
  let ls := imgLayerList m
  (imgShardList m).zipIdx.all (fun e => (rangeFrom e.1.first e.1.count).all (fun i => imgEntryOk m ls e.2 i e.1)) &&
    imgOrderOk m (imgBlocksOff m / 64) (imgShardList m)

/-- Steps 1 to 10 in order: 0 or the check code, for a range of bytes and the KEY_ID and NONCE_BASE of the other published images (R207). -/
def imgCheck (m : List Byte) (range : Nat) (others : List (Nat × List Byte)) : Nat :=
  if !imgMagicOk m then 1
  else if !imgHdrCrcOk m then 2
  else if !imgFieldOk m range then 3
  else if !imgSectionOk m then 4
  else if !imgMetaCrcOk m then 5
  else if !imgLayersOk m then 6
  else if !imgTablesOk m then 7
  else if !imgShardsOk m then 8
  else if !imgIndexOk m then 9
  else if others.contains (imgKeyId m, imgNonce m) then 10
  else 0

/-! ### Shards to stage (R210, R284, R285) -/

/-- The byte range of a shard within the image: its start and length; none of an empty or absent shard. -/
def imgRange (m : List Byte) (s : Nat) : Nat × Nat :=
  let x := imgShardAt m s
  if imgShards m ≤ s || !x.present || x.count = 0 then (0, 0)
  else
    let lo := 64 * (imgBlockAt m x.first).offset
    (lo, 64 * imgBlockEnd m (x.first + x.count - 1) - lo)

/-- Step 12 on one block: its head against its index entry and the header, and its CRC words. -/
def imgBlockOk (m : List Byte) (i : Nat) (b : List Byte) : Bool :=
  let e := imgBlockAt m i
  blkHeadCheck b i (imgKeyId m) (imgNonce m) == 0 && blkCtLen b == e.ct && blkElen b == e.elen && blkRaw b == e.raw && blkCrcOk b

/-- The blocks of a shard cut from the bytes of its range. -/
def imgShardBlocks (m : List Byte) (s : Nat) (bytes : List Byte) : List (Nat × List Byte) :=
  let x := imgShardAt m s
  let lo := (imgBlockAt m x.first).offset
  (rangeFrom x.first x.count).map (fun i =>
    (i, bytesAt bytes (64 * ((imgBlockAt m i).offset - lo)) (64 * (imgBlockAt m i).slen)))

/-- Steps 11 and 12 on one shard: 0 or the check code. -/
def imgShardCheck (m : List Byte) (s : Nat) (bytes : List Byte) : Nat :=
  if imgShards m ≤ s || !(imgShardAt m s).present then 11
  else if (imgShardBlocks m s bytes).all (fun b => imgBlockOk m b.1 b.2) then 0 else 12

/-- The initial state opened from the blocks of shard 1: a check code of Table 10-9, or the state (R211). -/
def imgOpenState (m : List Byte) (key : List Byte) : List (Nat × List Byte) → Except Nat (List Byte)
  | [] => .ok []
  | b :: t =>
    match openBlock b.2 b.1 (imgKeyId m) (imgNonce m) key with
    | .error c => .error c
    | .ok out =>
      match imgOpenState m key t with
      | .error c => .error c
      | .ok rest => .ok (out ++ rest)

end Sys2Proof.Machine
end

