-- ==== Sys2Proof/Machine/Streams.lean ====
section
/-! DEFINITION. Streams: the ring 0 commands, and what a boundary does to streams (06; 05 R95, R105; R111 to R126). -/

namespace Sys2Proof.Machine

/-! ### State buffers (R115, R117) -/

def gib : Nat := 2 ^ 30

/-- The state pool: from LIB.STAGE_LIMIT to the cache partition (Table 14-1). -/
def poolLo (s : State) : Nat := s.lib.stageLimit * gib
def poolHi (s : State) : Nat := (192 - s.lib.cacheGibInUse) * gib

/-- The state buffers allocated: address and length in whole 64-byte units. -/
def stateRanges (s : State) : List (Nat × Nat) :=
  s.str.table.filterMap (fun x => if x.2.stateLen = 0 then none else some (x.2.stateAddr, 64 * ceilDiv x.2.stateLen 64))

/-- The lowest free place of n bytes in the state pool, if any (log 16). -/
def statePlace (s : State) (n : Nat) : Option Nat :=
  let rs := stateRanges s
  let cands := (poolLo s :: rs.map (fun r => r.1 + r.2)).filter (fun a =>
    decide (poolLo s ≤ a) && decide (a + n ≤ poolHi s) && !rs.any (fun r => rangesMeet a n r.1 r.2))
  cands.foldl (fun best a => match best with
    | none => some a
    | some b => some (min a b)) none

/-- The streams that have a state buffer, by ascending address. -/
def insertAddr (x : Nat × Stream) : List (Nat × Stream) → List (Nat × Stream)
  | [] => [x]
  | y :: t => if x.2.stateAddr < y.2.stateAddr then x :: y :: t else y :: insertAddr x t

def stateHolders (s : State) : List (Nat × Stream) :=
  (s.str.table.filter (fun x => x.2.stateLen != 0)).foldr insertAddr []

/-- A state buffer moved down to an address: its bytes and poison marks go with it, and the old place is zeroed. -/
def moveBuffer (s : State) (i a : Nat) : State :=
  let x := streamOf s i
  let s := readHbm s [(x.stateAddr, x.stateLen)]
  let bytes := memSlice s.mem.hbm x.stateAddr x.stateLen a
  let marks := (s.mem.hbmPoison.filter (fun u => decide (x.stateAddr ≤ u * 64) && decide (u * 64 < x.stateAddr + x.stateLen))).map (fun u => u + a / 64 - x.stateAddr / 64)
  let s := hbmZero s x.stateAddr x.stateLen
  let s := { s with mem := { s.mem with hbm := memPut s.mem.hbm a x.stateLen bytes, hbmPoison := s.mem.hbmPoison ++ marks, hbmBad := notReplaced s.mem.hbmBad a x.stateLen } }
  setStream s i { x with stateAddr := a }

/-- Every state buffer moved to the lowest place that the ones below it leave. -/
def compactStates (s : State) : State :=
  ((stateHolders s).foldl (fun (a : Nat × State) x =>
    if a.1 < x.2.stateAddr then (a.1 + 64 * ceilDiv x.2.stateLen 64, moveBuffer a.2 x.1 a.1)
    else (max a.1 (x.2.stateAddr + 64 * ceilDiv x.2.stateLen 64), a.2)) (poolLo s, s)).2

/-- A place of n bytes for a state buffer. Where no gap is large enough the buffers move together first, so that the buffers of other tenants never keep a stream from a place that R271's sum gives it (R101, R115; log 16). -/
def placeState (s : State) (n : Nat) : Option (Nat × State) :=
  match statePlace s n with
  | some a => some (a, s)
  | none =>
    let s := compactStates s
    (statePlace s n).map (fun a => (a, s))

/-- A stream's state buffer zeroed and given back. -/
def scrubState (s : State) (i : Nat) : State :=
  let x := streamOf s i
  setStream (hbmZero s x.stateAddr x.stateLen) i { x with stateAddr := 0, stateLen := 0 }

/-! ### Results that wait for a window (R109, R114) -/

def insertOrd (r : Result) : List Result → List Result
  | [] => [r]
  | x :: t => if r.ord < x.ord then r :: x :: t else x :: insertOrd r t

def addDue (s : State) (r : Result) : State := { s with str := { s.str with due := insertOrd r s.str.due } }

/-- The result of an accepted frame that ends with a status, written in the window of tick k. -/
def frameEnds (s : State) (i k status : Nat) (f : Pending) : State :=
  let x := streamOf s i
  addDue s { ord := f.ord, fn := x.tenant, stream := i, seq := f.seq, opcode := 1, cookie := f.cookie, status := status
             tick := k, deferred := false, cls := x.cls, window := k, entries := [] }

/-- Pending frames of a stream dropped with a status in the window of tick k. -/
def dropFrames (s : State) (i k status : Nat) (p : Pending → Bool) : State :=
  let x := streamOf s i
  let s := (x.pending.filter p).foldl (fun s f => frameEnds s i k status f) s
  modStream s i (fun x => { x with pending := x.pending.filter (fun f => !p f) })

/-! ### Ends of streams (R54, R94, R106, R117, R118) -/

/-- A stream's ID and quota return; its entry is CLOSED. -/
def releaseStream (s : State) (i : Nat) : State :=
  let s := scrubState s i
  let s := dropReads s (fun o => match o with
    | .payload st _ => st == i
    | _ => false)
  { s with str := { s.str with table := tabErase i s.str.table, released := s.str.released ++ [i] } }

/-- A stream ended by a disable (1), an eviction (2) or a reset (3): no results, STREAM_ENDED where the tenant's event ring is enabled (R118), and T0's in the log in any case (R330). -/
def endStream (s : State) (i reason : Nat) : State :=
  let t := (streamOf s i).tenant
  let s := { s with str := { s.str with
      ctl := s.str.ctl.filter (fun c => c.stream != i)
      due := s.str.due.filter (fun r => r.stream != i)
      work := s.str.work.filter (fun w => w.stream != i) } }
  let s := releaseStream s i
  if t = 0 || (ringOf s t 2).enable then post s t { evOf 0x0103 1 reason with tenant := t, stream := i } else s

/-- The open streams of a tenant. -/
def streamsOf (s : State) (t : Nat) : List Nat :=
  (s.str.table.filter (fun x => holdsId x.2 && x.2.tenant == t)).map (·.1)

def endTenant (s : State) (t reason : Nat) : State := (streamsOf s t).foldl (fun s i => endStream s i reason) s

/-- The streams that a reset closes end (R54), in ascending ID, so that their IDs join the free list in that order: the model's choice for IDs released at one boundary, as for the disables and evictions after them (log 59). -/
def applyEndings (s : State) : State :=
  (s.str.table.filterMap (fun x => x.2.ending.map (fun r => (x.1, r)))).foldl (fun s e => endStream s e.1 e.2) s

/-- From the moment of a reset a function's streams are closed for validation, until the boundary that closes them: the first that is generated, also while none runs (R353, R54). -/
def resetStreams (s : State) (t : Nat) : State :=
  (streamsOf s t).foldl (fun s i => modStream s i (fun x => { x with ending := some 3 })) s

/-! ### Validation (R81 step 4, R95, R112) -/

/-- The plan that will be active at boundary n (R115). -/
def planAt (s : State) (n : Nat) : Option Plan :=
  if s.core.armed && s.core.commitN == n then s.core.standby else runningPlan s

/-- A stream that a descriptor of function fn may name. -/
def ownsStream (s : State) (fn i : Nat) : Bool :=
  let x := streamOf s i
  holdsId x && x.tenant == fn && x.ending.isNone

/-- R95 for a descriptor of intake k, and R81's stream check before it: 0, or the status. -/
def tenantCheck (s : State) (fn : Nat) (d : Desc) (k : Nat) : Nat :=
  let op := dOpcode d
  let r := tenOf s fn
  let c := tallyOf s fn k
  if op = 2 && dStream d ≠ 0 then 0x03
  else if op ≠ 2 && !ownsStream s fn (dStream d) then 0x03
  else if !r.enabled then 0x80
  else if r.quarantined && [1, 2, 3, 5].contains op then 0x84
  else if op = 2 && !r.classes.toNat.testBit (dArg0 d % 4) then 0x82
  else if op = 2 && (decide (r.streamQuota ≤ openCount s fn) || (dArg0 d % 4 == 0 && decide (r.aQuota ≤ openCountA s fn))) then 0x81
  else if op = 1 && decide (c.maxFrames ≤ c.frames) then 0x83
  else 0

/-- A FRAME that passes steps 1 and 2 of R95 counts toward the MAX_FRAMES of its intake. -/
def countFrame (s : State) (fn : Nat) (d : Desc) (k st : Nat) : State :=
  if dOpcode d = 1 && (st = 0 || st = 0x83) then modTally s fn k (fun t => { t with frames := t.frames + 1 }) else s

/-- The intake that a descriptor belongs to when it is validated: that of its arrival, or the open one once that has been applied (R352). -/
def intakeNow (s : State) (k : Nat) : Nat := if k < s.tick.index then s.tick.intake else k

/-- The descriptor at the front of a function's validated descriptors taken and judged by the checks of its tenant; the body gets the intake that it belongs to (R352). -/
def ring0 (s : State) (fn : Nat) (d : Desc) (op : Nat) (body : Nat → State → State) : State :=
  match (fnOf s fn).fetched with
  | (k, d') :: rest =>
    if d' = d && dOpcode d = op && !(fnOf s fn).resetting then
      let s := modFn s fn (fun f => { f with fetched := rest })
      let k := intakeNow s k
      let st := tenantCheck s fn d k
      let s := countFrame s fn d k st
      startFetch (if st ≠ 0 then refuse s fn d k st else body k s) fn 0
    else s
  | [] => s

/-- The next place in the order of acceptance. -/
def takeOrd (s : State) : Nat × State := (s.str.nextOrd, { s with str := { s.str with nextOrd := s.str.nextOrd + 1 } })

/-! ### OPEN (R113) -/

def freeId (s : State) : Option Nat :=
  if s.str.fresh < 65536 then some s.str.fresh else s.str.released.head?

def takeId (s : State) : State :=
  if s.str.fresh < 65536 then { s with str := { s.str with fresh := s.str.fresh + 1 } }
  else { s with str := { s.str with released := s.str.released.tail } }

def openDesc (s : State) (fn : Nat) (d : Desc) : State :=
  ring0 s fn d 2 (fun k s =>
    match freeId s with
    | none => refuse s fn d k 0x81
    | some i =>
      let s := setStream (takeId s) i { Stream.reset with st := .opened, vst := .opened, cls := dArg0 d % 4, tenant := fn, openTick := stampTick s }
      resultNow s (resultOf s fn d i 0))

/-- OPEN (R113) -/
def execOpenStream (fn : Nat) (d : Desc) (s : State) : Host.Outcome State Fault Refusal := .next (openDesc s fn d)

/-! ### BIND, PAUSE, RESUME, CLOSE (R114 to R117) -/

/-- A control descriptor accepted: it takes effect at the boundary that ends its intake. -/
def acceptCtl (s : State) (fn : Nat) (d : Desc) (k model : Nat) : State :=
  let o := takeOrd s
  let c : CtlReq := { ord := o.1, fn := fn, opcode := dOpcode d, stream := dStream d, cookie := dCookie d, model := model, intake := k }
  { o.2 with str := { o.2.str with ctl := o.2.str.ctl ++ [c] } }

/-- Streams other than i that hold a model or have a BIND for it validated (R115 step 3). -/
def boundTo (s : State) (i model : Nat) : List Nat :=
  (s.str.table.filter (fun x => x.1 != i &&
    ((x.2.model == model && (x.2.st == .bound || x.2.st == .paused)) ||
      s.str.ctl.any (fun c => c.stream == x.1 && c.opcode == 3 && c.model == model)))).map (·.1)

/-- R115: 0, or the status of a BIND in the intake of tick k. -/
def bindCheck (s : State) (i model k : Nat) : Nat :=
  match (planAt s (k + 1)).bind (fun p => entryFor p model) with
  | none => 0x41
  | some (m, _) =>
    let x := streamOf s i
    let others := boundTo s i model
    if (keyOf s m.keySlot).map (·.owner) ≠ some x.tenant then 0x42
    else if m.maxBound ≤ others.length ||
        (x.cls == 0 && decide (m.maxBoundA ≤ (others.filter (fun j => (streamOf s j).cls == 0)).length)) then 0x43
    else 0

def bindDesc (s : State) (fn : Nat) (d : Desc) : State :=
  ring0 s fn d 3 (fun k s =>
    let i := dStream d
    let model := dArg0 d
    match (streamOf s i).vst with
    | .bound => refuse s fn d k 0x44
    | .closing => refuse s fn d k 0x03
    | .closed => refuse s fn d k 0x03
    | .opened =>
      let st := bindCheck s i model k
      if st ≠ 0 then refuse s fn d k st
      else modStream (acceptCtl s fn d k model) i (fun x => { x with vst := .bound, vmodel := model })
    | .paused =>
      let st := bindCheck s i model k
      if st ≠ 0 then refuse s fn d k st
      else modStream (acceptCtl s fn d k model) i (fun x => { x with vst := .bound, vmodel := model }))

/-- BIND (R115) -/
def execBind (fn : Nat) (d : Desc) (s : State) : Host.Outcome State Fault Refusal := .next (bindDesc s fn d)

def pauseDesc (s : State) (fn : Nat) (d : Desc) : State :=
  ring0 s fn d 4 (fun k s =>
    match (streamOf s (dStream d)).vst with
    | .closing => refuse s fn d k 0x03
    | .closed => refuse s fn d k 0x03
    | _ => modStream (acceptCtl s fn d k 0) (dStream d) (fun x => { x with vst := .paused }))

/-- PAUSE (R116) -/
def execPause (fn : Nat) (d : Desc) (s : State) : Host.Outcome State Fault Refusal := .next (pauseDesc s fn d)

def resumeDesc (s : State) (fn : Nat) (d : Desc) : State :=
  ring0 s fn d 5 (fun k s =>
    match (streamOf s (dStream d)).vst with
    | .closing => refuse s fn d k 0x03
    | .closed => refuse s fn d k 0x03
    | .opened => refuse s fn d k 0x44
    | .bound => acceptCtl s fn d k 0
    | .paused => modStream (acceptCtl s fn d k 0) (dStream d) (fun x => { x with vst := if x.vmodel = 0 then .opened else .bound }))

/-- RESUME (R116) -/
def execResume (fn : Nat) (d : Desc) (s : State) : Host.Outcome State Fault Refusal := .next (resumeDesc s fn d)

def closeDesc (s : State) (fn : Nat) (d : Desc) : State :=
  ring0 s fn d 6 (fun k s =>
    match (streamOf s (dStream d)).vst with
    | .closing => refuse s fn d k 0x03
    | .closed => refuse s fn d k 0x03
    | _ => modStream (acceptCtl s fn d k 0) (dStream d) (fun x => { x with vst := .closing, st := .closing }))

/-- CLOSE (R117) -/
def execClose (fn : Nat) (d : Desc) (s : State) : Host.Outcome State Fault Refusal := .next (closeDesc s fn d)

/-! ### FRAME (R119, R121) -/

/-- d := (s − e) mod 65,536. -/
def seqAhead (seq e : Nat) : Nat := (seq + 65536 - e % 65536) % 65536

/-- A frame of stream x in intake k beyond what R121 lets wait: its status. A class A frame sent again in the intake in which its fetch failed is not a second one, since the failed frame is no longer accepted: the model's choice (log 93). -/
def frameRoom (x : Stream) (k : Nat) : Nat :=
  if x.cls = 0 then (if x.pending.any (fun f => f.intake == k) then 0x46 else 0)
  else if 8 ≤ x.pending.length then 0x47 else 0

def acceptFrame (s : State) (fn : Nat) (d : Desc) (k missing : Nat) : State :=
  let i := dStream d
  let s := if missing = 0 then s
           else post s fn { evOf 0x0101 1 (missing + dSeq d * 2 ^ 16) with tenant := fn, stream := i }
  let o := takeOrd s
  let f : Pending := { ord := o.1, seq := dSeq d, cookie := dCookie d, addr := dAddr d, len := dLen d, eou := dEou d
                       intake := k, age := 0, payload := none }
  startRead (modStream o.2 i (fun x => { x with pending := x.pending ++ [f], nextSeq := (dSeq d + 1) % 65536 }))
    (.payload i (dSeq d))

def frameDesc (s : State) (fn : Nat) (d : Desc) : State :=
  ring0 s fn d 1 (fun k s =>
    let x := streamOf s (dStream d)
    match x.vst with
    | .opened => refuse s fn d k 0x40
    | .paused => refuse s fn d k 0x48
    | .closing => refuse s fn d k 0x03
    | .closed => refuse s fn d k 0x03
    | .bound =>
      let ahead := seqAhead (dSeq d) x.nextSeq
      if 32768 ≤ ahead then refuse s fn d k 0x45
      else if frameRoom x k ≠ 0 then refuse s fn d k (frameRoom x k)
      else acceptFrame s fn d k ahead)

/-- FRAME (R119) -/
def execFrame (fn : Nat) (d : Desc) (s : State) : Host.Outcome State Fault Refusal := .next (frameDesc s fn d)

/-! ### Payloads (R78, R120) -/

/-- A result of R120, written at once, for a failure found in a tick. -/
def failResult (s : State) (i status tick : Nat) (f : Pending) : State :=
  let x := streamOf s i
  resultNow s { ord := 0, fn := x.tenant, stream := i, seq := f.seq, opcode := 1, cookie := f.cookie, status := status
                tick := tick, deferred := false, cls := x.cls, window := 0, entries := [] }

/-- The payload fetch of a pending frame fails: E returns to its SEQ, and the later frames of its intake are refused (R120). -/
def failFrame (s : State) (i status tick : Nat) (f : Pending) : State :=
  let x := streamOf s i
  let later := fun (g : Pending) => g.intake == f.intake && decide (f.ord < g.ord)
  let s := setStream s i { x with nextSeq := f.seq, pending := x.pending.filter (fun g => g.ord != f.ord && !later g) }
  let gone := f.seq :: (x.pending.filter later).map (·.seq)
  let s := dropReads s (fun o => match o with
    | .payload st q => st == i && gone.contains q
    | _ => false)
  (x.pending.filter later).foldl (fun s g => failResult s i 0x4B tick g) (failResult s i status tick f)

/-- The pending frame whose payload read is outstanding. -/
def fetching (s : State) (i seq : Nat) : Option Pending :=
  (streamOf s i).pending.find? (fun f => f.seq == seq && f.payload.isNone)

def payloadArrives (s : State) (i seq : Nat) (bytes : List Byte) : State :=
  if !readOut s (.payload i seq) then s
  else
    let s := endRead s (.payload i seq)
    match fetching s i seq with
    | none => s
    | some f => modStream s i (fun x => { x with pending := x.pending.map (fun g =>
        if g.ord = f.ord then { g with payload := some (padTo f.len bytes) } else g) })

/-- PAYLOAD_FETCH_COMPLETE (R78) -/
def execPayloadFetchComplete (stream seq : Nat) (bytes : List Byte) (s : State) : Host.Outcome State Fault Refusal :=
  .next (payloadArrives s stream seq bytes)

/-- The payload read of a frame ends with an error: the frame fails with a status, but for one of a stream that a reset is closing (R118). -/
def payloadFails (s : State) (i seq status : Nat) : State :=
  match fetching s i seq with
  | none => s
  | some f => if (streamOf s i).ending.isSome then s else failFrame s i status (stampTick s) f

/-- PAYLOAD_FETCH_FAIL (R120): DMA_ERROR. -/
def execPayloadFetchFail (stream seq : Nat) (s : State) : Host.Outcome State Fault Refusal :=
  .next (if readOut s (.payload stream seq) then payloadFails (endRead s (.payload stream seq)) stream seq 4 else s)

/-- The first frame of stream i that boundary k finds without its payload. -/
def overdue (s : State) (i k : Nat) : Option Pending :=
  if (streamOf s i).ending.isSome then none
  else (streamOf s i).pending.find? (fun f => decide (f.intake < k) && f.payload.isNone)

/-- Every intake of a stream, at most one a pending frame, judged at boundary k; E returns to the first SEQ that failed. -/
def failOverdue (s : State) (i k : Nat) : State :=
  match overdue s i k with
  | none => s
  | some f =>
    let s := (List.range 8).foldl (fun s _ => match overdue s i k with
      | some g => failFrame s i 5 k g
      | none => s) s
    modStream s i (fun x => { x with nextSeq := f.seq })

/-- R78: a payload not complete at the boundary that ends its intake fails with DMA_TIMEOUT, in tick k (R120). A stream that a reset is closing drops its frames with no result (R118). -/
def payloadDeadline (s : State) (k : Nat) : State := (streamIds s).foldl (fun s i => failOverdue s i k) s

/-! ### The end of a tick: computed frames (R123, R126, R251) -/

/-- A frame that the tick still numbered `tick.index` computed: its result in the window of tick k, its counts. One for which the plan posted nothing completes with one empty record (R81; log 60). EOU_SEEN is set when a frame with EOU = 1 has been computed and stays set until the stream is closed: Table 6-3 only names the bit (log 94). -/
def frameDone (s : State) (k : Nat) (w : WorkFrame) : State :=
  let s := modStream s w.stream (fun x => { x with frames := min (x.frames + 1) 0xFFFFFFFF, eouSeen := x.eouSeen || w.frame.eou })
  let s := if w.frame.eou && !w.refilled then fillState s (streamOf s w.stream) (initAddrOf s w.modelIdx) else s
  addDue s { ord := w.frame.ord, fn := w.tenant, stream := w.stream, seq := w.frame.seq, opcode := 1
             cookie := w.frame.cookie, status := 0, tick := s.tick.index
             deferred := decide (w.frame.intake + 1 < s.tick.index)
             cls := w.cls, window := k, entries := w.posted.getD [] }

/-- The tick that ends at boundary k: results of its frames, or MODEL_GONE after a halt. -/
def finishTick (s : State) (k : Nat) : State :=
  let ws := s.str.work
  let halted := s.core.halted
  let s := { s with str := { s.str with work := [] } }
  ws.foldl (fun s w => if halted then frameEnds s w.stream k 0x4C w.frame else frameDone s k w) s

/-! ### Step 3 of R108: models that circulate no more -/

/-- The validation state: the state with every control not yet applied replayed (R112). -/
def replayCtl (v : StreamState × Nat) (c : CtlReq) : StreamState × Nat :=
  if c.opcode = 3 then (.bound, c.model)
  else if c.opcode = 4 then (if v.1 == .opened || v.1 == .bound then .paused else v.1, v.2)
  else if c.opcode = 5 then (if v.1 == .paused then (if v.2 = 0 then .opened else .bound) else v.1, v.2)
  else (.closing, v.2)

def resync (s : State) (i : Nat) : State :=
  let x := streamOf s i
  let v := (s.str.ctl.filter (fun c => c.stream == i)).foldl replayCtl (x.st, x.model)
  setStream s i { x with vst := if x.st == .closing then .closing else v.1, vmodel := v.2 }

/-- A stream unbound: OPEN, its buffer scrubbed, its pending frames ended with MODEL_GONE, MODEL_GONE posted. -/
def unbind (s : State) (k i : Nat) : State :=
  let model := (streamOf s i).model
  let s := scrubState s i
  let s := dropFrames s i k 0x4C (fun _ => true)
  let s := modStream s i (fun x => { x with model := 0, st := if x.st == .closing then .closing else .opened })
  let t := (streamOf s i).tenant
  resync (post s t { evOf 0x0102 1 model with tenant := t, stream := i }) i

/-- Step 3: every stream whose model the running plan does not circulate. -/
def stepUnbind (s : State) (k : Nat) : State :=
  let circulates := fun m => match runningPlan s with
    | some p => (entryFor p m).isSome
    | none => false
  ((s.str.table.filter (fun x => x.2.model != 0 && !circulates x.2.model)).map (·.1)).foldl (fun s i => unbind s k i) s

/-! ### Step 4 of R108: control descriptors -/

/-- The result of a control descriptor, in the window of the tick after (R114). Its TICK is the index of the boundary at which it took effect: Table 4-10 gives TICK for a computed frame and an error only (log 95). -/
def ctlDone (s : State) (k status : Nat) (c : CtlReq) : State :=
  let x := streamOf s c.stream
  addDue s { ord := c.ord, fn := x.tenant, stream := c.stream, seq := 0, opcode := c.opcode, cookie := c.cookie
             status := status, tick := k, deferred := false, cls := x.cls, window := k + 1, entries := [] }

/-- BIND takes effect: a buffer of STATE_LEN bytes filled with the initial state (R115). -/
def applyBind (s : State) (k : Nat) (c : CtlReq) : State :=
  match (runningPlan s).bind (fun p => entryFor p c.model) with
  | none =>
    let s := if (streamOf s c.stream).st == .bound then s
             else dropFrames s c.stream k 0x4C (fun f => decide (c.ord < f.ord))
    ctlDone s k 0x41 c
  | some (m, _) =>
    let s := scrubState s c.stream
    match (if m.stateLen = 0 then some (0, s) else placeState s (64 * ceilDiv m.stateLen 64)) with
    | none => ctlDone s k 0x43 c
    | some (a, s) =>
      let s := modStream s c.stream (fun x => { x with stateAddr := a, stateLen := m.stateLen, model := c.model, bindTick := k
                                                       st := if x.st == .closing then .closing else .bound })
      ctlDone (fillState s (streamOf s c.stream) m.initAddr) k 0 c

/-- A stream paused: its pending frames end with STREAM_PAUSED (R116). -/
def pauseStream (s : State) (i k : Nat) : State :=
  let s := dropFrames s i k 0x48 (fun _ => true)
  modStream s i (fun x => { x with st := if x.st == .opened || x.st == .bound then .paused else x.st })

/-- One control descriptor applied at boundary k. A CLOSE drops the frames of earlier intakes, deferred until now, and leaves those of its own intake to be computed in tick k, where R117 has frames accepted before it computed in that tick and every frame still pending dropped; what tick k does not take is dropped by `closeRest`: the model's choice (log 96). -/
def applyCtl (s : State) (k : Nat) (c : CtlReq) : State :=
  if c.opcode = 3 then applyBind s k c
  else if c.opcode = 4 then ctlDone (pauseStream s c.stream k) k 0 c
  else if c.opcode = 5 then
    ctlDone (modStream s c.stream (fun x =>
      { x with st := if x.st == .paused then (if x.model = 0 then .opened else .bound) else x.st })) k 0 c
  else ctlDone (dropFrames s c.stream k 0x49 (fun f => decide (f.intake + 1 < k))) k 0 c

/-- Step 4: the controls of the intakes that have ended, in ring order. -/
def stepControls (s : State) (k : Nat) : State :=
  let due := s.str.ctl.filter (fun c => decide (c.intake < k))
  let s := { s with str := { s.str with ctl := s.str.ctl.filter (fun c => !decide (c.intake < k)) } }
  due.foldl (fun s c => resync (applyCtl s k c) c.stream) s

/-! ### Step 5 of R108: ageing -/

/-- The deferral limit of a class (Table 6-5). -/
def ageLimit (cls : Nat) : Option Nat := if cls = 1 then some 8 else if cls = 2 then some 64 else none

/-- A pending frame of class B, C or D that is due at boundary k ages by one; AGE saturates at 255. -/
def ageFrame (cls k : Nat) (f : Pending) : Pending :=
  if cls ≠ 0 && decide (f.intake < k) then { f with age := min (f.age + 1) 255 } else f

def tooOld (cls : Nat) (f : Pending) : Bool :=
  match ageLimit cls with
  | some n => decide (n < f.age)
  | none => false

def ageAll (s : State) (k : Nat) : State :=
  (streamIds s).foldl (fun s i => modStream s i (fun x => { x with pending := x.pending.map (ageFrame x.cls k) })) s

def stepAge (s : State) (k : Nat) : State :=
  let s := ageAll s k
  (streamIds s).foldl (fun s i => dropFrames s i k 0x4A (tooOld (streamOf s i).cls)) s

/-! ### Tile maps (R122, R136) -/

/-- Whether a stream computes in the tick that begins: its class is admitted, or its tenant's fixed-slot work is (R104). -/
def computes (s : State) (p : Plan) (x : Stream) : Bool :=
  (x.st == .bound || x.st == .closing) && x.ending.isNone &&
    (s.tick.admitted.toNat.testBit x.cls || (s.tick.fixed && (x.cls == 1 || x.cls == 2) && p.fixedFor.contains x.tenant))

/-- The frames that a stream computes in tick k: its oldest due ones, up to CATCHUP (R122). -/
def framesFor (p : Plan) (k : Nat) (x : Stream) : List Pending :=
  (x.pending.filter (fun f => decide (f.intake < k) && f.payload.isSome)).take (if x.cls = 0 then 1 else getAt 1 p.catchup x.cls)

def catchupMax (p : Plan) : Nat := p.catchup.foldl max 1
def tilesPerRound (m : ModelEntry) : Nat := ceilDiv m.maxBound 64

/-- The streams bound to a model entry that compute in tick k, in stream ID order, as many as its tiles hold. -/
def computing (s : State) (p : Plan) (k : Nat) (m : ModelEntry) : List (Nat × Stream) :=
  (s.str.table.filter (fun x => x.2.model == m.modelId && computes s p x.2 && !(framesFor p k x.2).isEmpty)).take (64 * tilesPerRound m)

/-- Round r of a model entry's tile map. -/
def roundOf (p : Plan) (k idx r : Nat) (m : ModelEntry) (xs : List (Nat × Stream)) : List WorkFrame :=
  (xs.filterMap (fun x => ((framesFor p k x.2)[r]?).map (fun f => (x, f)))).zipIdx.map (fun e =>
    { stream := e.1.1.1, tenant := e.1.1.2.tenant, cls := e.1.1.2.cls, modelIdx := idx
      tile := r * tilesPerRound m + e.2 / 64, column := e.2 % 64, frame := e.1.2, posted := none, refilled := false })

/-- The tile map of tick k. A model entry that repeats an earlier entry's MODEL_ID applies to no stream (R115). -/
def tileMap (s : State) (p : Plan) (k : Nat) : List WorkFrame :=
  p.models.zipIdx.flatMap (fun e =>
    if (entryFor p e.1.modelId).map (·.2) = some e.2 then
      let xs := computing s p k e.1
      (List.range (catchupMax p)).flatMap (fun r => roundOf p k e.2 r e.1 xs)
    else [])

/-- The tile maps built: their frames are pending no more. -/
def buildTiles (s : State) (k : Nat) : State :=
  match runningPlan s with
  | none => s
  | some p =>
    let ws := tileMap s p k
    let s := { s with str := { s.str with work := ws } }
    (streamIds s).foldl (fun s i => modStream s i (fun x =>
      { x with pending := x.pending.filter (fun f => !ws.any (fun w => w.frame.ord == f.ord)) })) s

/-- Whether a stream's CLOSE took effect at boundary k. -/
def closedAt (s : State) (i k : Nat) : Bool :=
  s.str.due.any (fun r => r.stream == i && r.opcode == 6 && r.window == k + 1)

/-- Frames left to a stream whose CLOSE took effect: STREAM_CLOSED (R117). -/
def closeRest (s : State) (k : Nat) : State :=
  (streamIds s).foldl (fun s i => if closedAt s i k then dropFrames s i k 0x49 (fun _ => true) else s) s

/-! ### The result-post window (R109) -/

/-- The first descriptor of a stream whose result is not ready in the window of tick k. -/
def firstUnready (s : State) (k i : Nat) : Option Nat :=
  let os := (streamOf s i).pending.map (·.ord) ++ (s.str.work.filter (fun w => w.stream == i)).map (·.frame.ord) ++
    (s.str.ctl.filter (fun c => c.stream == i)).map (·.ord) ++
    (s.str.due.filter (fun r => r.stream == i && decide (k < r.window))).map (·.ord)
  os.foldl (fun a o => match a with
    | none => some o
    | some b => some (min b o)) none

/-- A result written in the window of tick k: due, with every earlier result of its stream before it. -/
def readyAt (s : State) (k : Nat) (r : Result) : Bool :=
  decide (r.window ≤ k) && match firstUnready s k r.stream with
    | some o => decide (r.ord < o)
    | none => true

/-- One result of a window written; a CLOSE releases its stream (R117). The functions written to are collected. -/
def writeDue (a : List Nat × State) (r : Result) : List Nat × State :=
  let p := putResult a.2 r
  let s := if r.opcode = 6 then releaseStream p.2 r.stream else p.2
  (if p.1 then insertNat r.fn a.1 else a.1, s)

/-- The result-post window of tick k: class A first, then the others; then the result vector of each function written to, once. -/
def postWindow (s : State) (k : Nat) : State :=
  let ready := s.str.due.filter (readyAt s k)
  let s := { s with str := { s.str with due := s.str.due.filter (fun r => !readyAt s k r) } }
  let a := (ready.filter (fun r => r.cls == 0)).foldl writeDue ([], s)
  let b := (ready.filter (fun r => r.cls != 0)).foldl writeDue a
  b.1.foldl (fun s fn => raiseMsix s fn (ringVector 1)) b.2

/-- Frames of class A whose due tick is skipped (R185). -/
def dropSkipped (s : State) (k : Nat) : State :=
  (streamIds s).foldl (fun s i =>
    if (streamOf s i).cls = 0 then dropFrames s i k 0x4A (fun f => decide (f.intake < k)) else s) s

end Sys2Proof.Machine
end

