-- ==== Sys2Proof/Machine/Library.lean ====
section
/-! DEFINITION. The shared model library: host requests, the directory and recalls, the HBM cache and flash, host death,
publish, retire and prefetch (14; R67, R87, R326, R329). -/

namespace Sys2Proof.Machine

/-! ### Pages and lines -/

/-- The library page of a 64-byte line (R269). -/
def linePage (line : Nat) : Nat := line / 64

/-- Lines within the capacity (R269). -/
def libLines (s : State) : Nat := s.lib.capacity * 2 ^ 22

/-- Pages of the library. -/
def libPages (s : State) : Nat := s.lib.capacity * 65536

/-- Cache pages: the partition without its directory (Table 14-1). -/
def cachePageMax (s : State) : Nat := s.lib.cacheGibInUse * 2 ^ 18 - 32768

def pageOf (s : State) (p : Nat) : Option CachePage := s.lib.pages.find? (fun x => x.page == p)

def modPage (s : State) (p : Nat) (g : CachePage → CachePage) : State :=
  { s with lib := { s.lib with pages := s.lib.pages.map (fun x => if x.page = p then g x else x) } }

/-- A cache page taken for a library page. -/
def addPage (s : State) (p : Nat) (filling : Bool) : State :=
  { s with lib := { s.lib with pages := s.lib.pages ++ [{ page := p, dirty := false, writing := false, filling := filling
                                                          fresh := [], evicting := false, snap := [], snapPoison := [] }] } }

/-- Lines of a list that lie in a page, and those that do not. -/
def inPage (p : Nat) (l : List Nat) : List Nat := l.filter (fun x => linePage x == p)
def outPage (p : Nat) (l : List Nat) : List Nat := l.filter (fun x => linePage x != p)

/-- A cache page dropped. -/
def dropPage (s : State) (p : Nat) : State :=
  { s with lib := { s.lib with pages := s.lib.pages.filter (fun x => x.page != p), cache := memClear s.lib.cache (4096 * p) 4096
                               cachePoison := outPage p s.lib.cachePoison } }

/-- A page's flash contents taken into its cache page. -/
def loadPage (s : State) (p : Nat) : State :=
  { s with lib := { s.lib with
      cache := memPut s.lib.cache (4096 * p) 4096 (memSlice s.lib.flash (4096 * p) 4096 (4096 * p))
      cachePoison := outPage p s.lib.cachePoison ++ inPage p s.lib.flashPoison } }

/-- A range of the cache laid over a view of the library. -/
def overlay (s : State) (m : Mem) (a n : Nat) : Mem := memPut m a n (memSlice s.lib.cache a n a)

/-- The library as its readers see it: flash under the cached pages, and of a page being read only the lines that hosts have returned. -/
def libView (s : State) : Mem :=
  s.lib.pages.foldl (fun m x => if x.filling then x.fresh.foldl (fun m l => overlay s m (64 * l) 64) m
    else overlay s m (4096 * x.page) 4096) s.lib.flash

/-- Cache pages that are dirty or being written. -/
def dirtyCount (s : State) : Nat := (s.lib.pages.filter (fun x => x.dirty || x.writing)).length

/-- A quarter of the cache pages is dirty (R273). -/
def dirtyFull (s : State) : Bool := decide (cachePageMax s ≤ 4 * dirtyCount s)

def published (s : State) (p : Nat) : Bool := s.lib.catalog.any (fun e => decide (e.first ≤ p) && decide (p < e.first + e.pages))

/-- Locked by a publish (R281). -/
def locked (s : State) (p : Nat) : Bool :=
  match s.lib.lock with
  | some (first, n) => decide (first ≤ p) && decide (p < first + n)
  | none => false

/-- A line that a publish has still to recall (R281). -/
def publishRecalls (s : State) (line : Nat) : Bool :=
  match s.admin with
  | some { d := _, work := .publish _ _ recalling _ } => recalling.contains line
  | _ => false

/-! ### The directory (R274, R275) -/

def dirOf (s : State) (line : Nat) : Option DirEntry := s.lib.dir.find? (fun e => e.line == line)

/-- An entry written, or freed when it is left with no holder. -/
def setDir (s : State) (e : DirEntry) : State :=
  let rest := s.lib.dir.filter (fun x => x.line != e.line)
  { s with lib := { s.lib with dir := if e.holders = 0 then rest else rest ++ [e] } }

def ldBit (ld : Nat) : BitVec 16 := BitVec.ofNat 16 (2 ^ ld)

/-- The hosts of a holder vector. -/
def hostsOf (v : BitVec 16) : List Nat := (List.range 16).filter (fun i => v.toNat.testBit i)

/-- A snoop to a host outstanding for a line. -/
def snoopOut (s : State) (ld line : Nat) : Bool := s.lib.snoops.any (fun x => x.ld == ld && x.line == line)

/-- A line under recall. -/
def snooping (s : State) (line : Nat) : Bool := s.lib.snoops.any (fun x => x.line == line)

/-- A snoop sent to a host, unless one is outstanding to it for the line. -/
def sendSnoop (s : State) (ld line : Nat) (data : Bool) : State :=
  if snoopOut s ld line then s
  else emit { s with lib := { s.lib with snoops := s.lib.snoops ++ [{ ld := ld, line := line, data := data }] } } (.snoop ld line data)

/-- BISnpInv to every holder of an entry but one. -/
def recallEntry (s : State) (e : DirEntry) (except : Option Nat) : State :=
  ((hostsOf e.holders).filter (fun h => some h != except)).foldl (fun s h => sendSnoop s h e.line false) s

/-- BISnpInv to every holder of the lines chosen. -/
def recallLines (s : State) (which : Nat → Bool) : State :=
  (s.lib.dir.filter (fun e => which e.line)).foldl (fun s e => recallEntry s e none) s

/-- The directory set of a line: 2^20 sets of 16 ways (log 41). -/
def dirSet (line : Nat) : Nat := line % 2 ^ 20

/-- The entries of a line's set. -/
def setEntries (s : State) (line : Nat) : List DirEntry := s.lib.dir.filter (fun e => dirSet e.line == dirSet line)

/-- The least recently granted of some entries. -/
def oldestEntry : List DirEntry → Option DirEntry
  | [] => none
  | e :: t => match oldestEntry t with
    | none => some e
    | some x => if x.stamp < e.stamp then some x else some e

/-- A line granted to a host, shared or owned. -/
def grantLine (s : State) (ld line : Nat) (owned : Bool) : State :=
  let holders := match dirOf s line with
    | some e => if owned then ldBit ld else e.holders ||| ldBit ld
    | none => ldBit ld
  let s := setDir s { line := line, holders := holders, owned := owned, stamp := s.lib.dirStamp }
  { s with lib := { s.lib with dirStamp := s.lib.dirStamp + 1 } }

/-! ### Serving host requests (R270, R273 to R276, R281, R282, R290, R329) -/

/-- A line's bytes sent to a host. -/
def sendLine (s : State) (ld line : Nat) (shared : Bool) : State :=
  emit s (.cxlData ld line (memBytes 0 s.lib.cache (64 * line) 64) (s.lib.cachePoison.contains line) shared)

/-- A full directory set recalls its least recently granted entry; otherwise the line is granted and sent. The Bool tells whether it was. -/
def grantOrRecall (s : State) (ld line : Nat) (owned : Bool) : Bool × State :=
  if (dirOf s line).isNone && decide (16 ≤ (setEntries s line).length) then
    match oldestEntry (setEntries s line) with
    | some e => (false, recallEntry s e none)
    | none => (false, s)
  else (true, sendLine (grantLine s ld line owned) ld line (!owned))

def serveRead (s : State) (ld line : Nat) : Bool × State :=
  if publishRecalls s line then (false, s)
  else match dirOf s line with
    | some e =>
      if e.owned && e.holders == ldBit ld then (true, sendLine s ld line false)
      else if e.owned then (false, (hostsOf e.holders).foldl (fun s h => sendSnoop s h line true) s)
      else grantOrRecall s ld line false
    | none => grantOrRecall s ld line false

/-- Holders of a line other than one host. -/
def othersHold (s : State) (ld line : Nat) : Bool :=
  match dirOf s line with
  | some e => e.holders &&& ~~~(ldBit ld) != 0
  | none => false

def recallOthers (s : State) (ld line : Nat) : State :=
  match dirOf s line with
  | some e => recallEntry s e (some ld)
  | none => s

def serveOwn (s : State) (ld line : Nat) : Bool × State :=
  if locked s (linePage line) then (false, s)
  else if published s (linePage line) || s.lib.readOnly then serveRead s ld line
  else if dirtyFull s then (false, s)
  else if othersHold s ld line then (false, recallOthers s ld line)
  else grantOrRecall s ld line true

/-- One refused write counted for its host (R282): the first page and the reason of the tick stand. -/
def tallyRefused (ld reason page : Nat) : List (Nat × Nat × Nat × Nat) → List (Nat × Nat × Nat × Nat)
  | [] => [(ld, reason, page, 1)]
  | x :: t => if x.1 = ld then (x.1, x.2.1, x.2.2.1, x.2.2.2 + 1) :: t else x :: tallyRefused ld reason page t

/-- A write completed without changing any byte. -/
def refuseWrite (s : State) (ld line reason : Nat) : State :=
  emit { s with lib := { s.lib with writesRefused := satAdd s.lib.writesRefused 1
                                    refused := tallyRefused ld reason (linePage line) s.lib.refused } } (.cxlDone ld line)

/-- A whole line put into its cache page: its poison goes, and the page is dirty. In a page being read again from flash the line outlives the read (R270). -/
def putLine (s : State) (line : Nat) (data : List Byte) : State :=
  modPage { s with lib := { s.lib with cache := memWrite 0 s.lib.cache (64 * line) (padTo 64 data)
                                       cachePoison := s.lib.cachePoison.filter (· != line) } }
    (linePage line) (fun x => { x with dirty := true, fresh := if x.filling then insertNat line x.fresh else x.fresh })

def pageClean (s : State) (p : Nat) : Bool :=
  match pageOf s p with
  | some x => !x.dirty && !x.writing
  | none => true

def serveWrite (s : State) (ld line : Nat) (data : List Byte) : Bool × State :=
  if dirtyFull s && pageClean s (linePage line) then (false, s)
  else if othersHold s ld line then (false, recallOthers s ld line)
  else (true, emit (putLine s line data) (.cxlDone ld line))

/-- A victim chosen and its eviction begun; which page is open (log 41). -/
def evictOne (s : State) : State :=
  let cands := s.lib.pages.filter (fun x => !x.filling && !x.evicting)
  if s.lib.pages.any (·.evicting) || cands.isEmpty then s
  else
    let r := drawRandom s cands.length
    match cands[r.1]? with
    | some v => recallLines (modPage r.2 v.page (fun x => { x with evicting := true })) (fun l => linePage l == v.page)
    | none => s

/-- An evicted page goes once no host holds or owes a line of it and it is written back. -/
def finishEviction (s : State) (x : CachePage) : State :=
  let here := fun l => linePage l == x.page
  if x.evicting && !x.dirty && !x.writing && !s.lib.dir.any (fun e => here e.line) && !s.lib.snoops.any (fun q => here q.line)
  then dropPage s x.page else s

def finishEvictions (s : State) : State := s.lib.pages.foldl finishEviction s

/-- A miss: a flash read begins where a cache page is free. -/
def startFill (s : State) (p : Nat) : State :=
  let s := if s.lib.pages.length < cachePageMax s then s else finishEvictions (evictOne s)
  if s.lib.pages.length < cachePageMax s then addPage s p true else s

/-- A warm reset's recall and flush is under way. Reads of lines that are not under recall are served meanwhile (R275); ownership requests and writes wait for the reset, so that the recall comes to an end: the model's choice (log 63). -/
def flushing (s : State) : Bool :=
  match s.boot.warm with
  | some w => w.flush && w.due
  | none => false

/-- A request whose page is in the cache. -/
def serveCached (s : State) (r : LibReq) : Bool × State :=
  match r.kind with
  | .read => serveRead s r.ld r.line
  | .own => serveOwn s r.ld r.line
  | .write data => serveWrite s r.ld r.line data

/-- A write that completes unchanged: its reason (R282, R290). -/
def writeRefusal (s : State) (r : LibReq) : Nat :=
  match r.kind with
  | .write _ => if published s (linePage r.line) then 1 else if s.lib.readOnly then 2 else 0
  | _ => 0

def isWrite (r : LibReq) : Bool :=
  match r.kind with
  | .write _ => true
  | _ => false

/-- One request: served, or left waiting with what it needs begun. -/
def serve (s : State) (r : LibReq) : Bool × State :=
  let p := linePage r.line
  if snooping s r.line || (flushing s && r.kind != .read) then (false, s)
  else if isWrite r && locked s p then (false, s)
  else if writeRefusal s r ≠ 0 then (true, refuseWrite s r.ld r.line (writeRefusal s r))
  else match pageOf s p with
    | none => (false, startFill s p)
    | some x => if x.filling || x.evicting then (false, s) else serveCached s r

/-- The waiting requests in order; one that waits holds back the later ones of its line. -/
def settleOne (a : List Nat × State) (r : LibReq) : List Nat × State :=
  let keep := fun (s : State) => { s with lib := { s.lib with waiting := s.lib.waiting ++ [r] } }
  if a.1.contains r.line then (a.1, keep a.2)
  else
    let x := serve a.2 r
    if x.1 then (a.1, x.2) else (r.line :: a.1, keep x.2)

def settle (s : State) : State :=
  (s.lib.waiting.foldl settleOne ([], { s with lib := { s.lib with waiting := [] } })).2

/-! ### Publish (R280 to R282) -/

/-- The bytes of an image up to BLOCKS_OFF, within its range. -/
def imageMeta (s : State) (first pages : Nat) : List Byte :=
  let v := libView s
  memBytes 0 v (4096 * first) (max 512 (min (imgBlocksOff (memBytes 0 v (4096 * first) 512)) (4096 * pages)))

/-- KEY_ID and NONCE_BASE of the published images other than the one at a page. -/
def otherImages (s : State) (first : Nat) : List (Nat × List Byte) :=
  (s.lib.catalog.filter (fun e => e.first != first)).map (fun e => (e.keyId, e.nonceBase))

/-- Pages of a range that flash must be read for. -/
def uncached (s : State) (lo n : Nat) : List Nat := (rangeFrom lo n).filter (fun p => (pageOf s p).isNone)

def countFlashRead (s : State) (n : Nat) : State := { s with lib := { s.lib with flashRd := wrapAdd64 s.lib.flashRd (4096 * n) } }

def unlock (s : State) : State := { s with lib := { s.lib with lock := none } }

/-- Steps 4 to 6 of R281 once the range has no dirty page. -/
def publishEnd (s : State) (d : Desc) (first pages : Nat) : State :=
  let inRange := fun (x : CachePage) => decide (first ≤ x.page) && decide (x.page < first + pages)
  if s.lib.readOnly then adminDone (unlock s) d 0xC4 0
  else if s.lib.pages.any (fun x => inRange x && (x.dirty || x.writing)) then adminWait s d (.publish first pages [] true)
  else
    let m := imageMeta s first pages
    let e : CatalogEntry := { first := first, pages := pages, imageId := imgImageId m, modelId := imgModelId m, keyId := imgKeyId m
                              nonceBase := imgNonce m }
    adminDone (unlock { s with lib := { s.lib with catalog := s.lib.catalog ++ [e] } }) d 0 0

/-- Step 3 of R281 once the recall has ended. -/
def publishCheck (s : State) (d : Desc) (first pages : Nat) : State :=
  let m := imageMeta s first pages
  let s := countFlashRead s (uncached s first (ceilDiv m.length 4096)).length
  let c := imgCheck m (4096 * pages) (otherImages s first)
  if c ≠ 0 then adminDone (unlock s) d 0xC5 c else publishEnd s d first pages

/-- The publish in progress goes on as far as it can. -/
def publishStep (s : State) : State :=
  match s.admin with
  | some { d := d, work := .publish first pages recalling checked } =>
    if checked then publishEnd s d first pages
    else
      let left := recalling.filter (fun l => (dirOf s l).isSome || snooping s l)
      if left.isEmpty then publishCheck s d first pages
      else recallLines (adminWait s d (.publish first pages left false)) (fun l => left.contains l)
  | _ => s

/-- The recall of a warm reset goes on (R55). -/
def flushStep (s : State) : State := if flushing s then recallLines s (fun _ => true) else s

/-- Every holder of a line of a page being evicted is recalled, also one that has become a sharer since (Table 14-2). -/
def evictStep (s : State) : State :=
  (s.lib.pages.filter (·.evicting)).foldl (fun s x => recallLines s (fun l => linePage l == x.page)) s

/-- Everything that may go on after a change in the library. -/
def libProgress (s : State) : State := flushStep (settle (publishStep (finishEvictions (evictStep s))))

/-! ### Requests from hosts -/

/-- A host that reaches the chip over CXL.mem. -/
def hostReaches (s : State) (ld : Nat) : Bool :=
  mainOn s && s.host.linkUp && decide (ld < 16) && s.host.ldUp.toNat.testBit ld

/-- Whether a host's reads are poisoned and its writes dropped: the window is closed (R67) or the host is dead (R279). -/
def cutOff (s : State) (ld : Nat) : Bool := !s.lib.isOpen || s.host.dead.toNat.testBit ld

/-- A write dropped; a closed window logs the host's first one. -/
def dropWrite (s : State) (ld line : Nat) : State :=
  let s := if !s.lib.isOpen && !s.host.closedLogged.toNat.testBit ld then
      note (setHost s { s.host with closedLogged := s.host.closedLogged ||| ldBit ld }) 6 ld else s
  emit s (.cxlDropped ld line)

def libRequest (s : State) (r : LibReq) : State :=
  if !hostReaches s r.ld then s
  else if cutOff s r.ld then
    if isWrite r then dropWrite s r.ld r.line
    else emit s (.cxlData r.ld r.line (List.replicate 64 0xFF) true false)
  else if libLines s ≤ r.line then s
  else libProgress { s with lib := { s.lib with waiting := s.lib.waiting ++ [r] } }

/-- CXL_MEM_READ (R276) -/
def execCxlMemRead (ld line : Nat) (s : State) : Host.Outcome State Fault Refusal :=
  .next (libRequest s { ld := ld, line := line, kind := .read })

/-- CXL_MEM_WRITE (R273) -/
def execCxlMemWrite (ld line : Nat) (data : List Byte) (s : State) : Host.Outcome State Fault Refusal :=
  .next (libRequest s { ld := ld, line := line, kind := .write data })

/-- OWNERSHIP_REQUEST (R274) -/
def execOwnershipRequest (ld line : Nat) (s : State) : Host.Outcome State Fault Refusal :=
  .next (libRequest s { ld := ld, line := line, kind := .own })

/-! ### Snoop responses and death of a host (R275, R278, R279) -/

/-- A holder's bit cleared in one entry; an entry left with none is freed. -/
def clearHolder (s : State) (ld line : Nat) : State :=
  match dirOf s line with
  | some e => setDir s { e with holders := e.holders &&& ~~~(ldBit ld), owned := false }
  | none => s

/-- Whether a host owns a line. -/
def ownsLine (s : State) (ld line : Nat) : Bool :=
  match dirOf s line with
  | some e => e.owned && e.holders == ldBit ld
  | none => false

/-- An owner's data taken; any other response carries none. -/
def takeData (s : State) (ld line : Nat) (data : Option (List Byte)) : State :=
  match data with
  | some bs => if ownsLine s ld line then putLine s line bs else s
  | none => s

/-- BISnpData leaves the line shared with its owner, BISnpInv takes it away. -/
def endSnoop (s : State) (x : Snoop) : State :=
  let s := { s with lib := { s.lib with snoops := s.lib.snoops.filter (fun y => !(y.ld == x.ld && y.line == x.line)) } }
  if x.data then
    match dirOf s x.line with
    | some e => setDir s { e with owned := false }
    | none => s
  else clearHolder s x.ld x.line

def bisnpResponse (s : State) (ld line : Nat) (data : Option (List Byte)) : State :=
  match s.lib.snoops.find? (fun x => x.ld == ld && x.line == line) with
  | some x => libProgress (endSnoop (takeData s ld line data) x)
  | none => s

/-- BISNP_RESPONSE (R275) -/
def execBisnpResponse (ld line : Nat) (data : Option (List Byte)) (s : State) : Host.Outcome State Fault Refusal :=
  .next (bisnpResponse s ld line data)

/-- A host dies by a cause of R278. -/
def hostDies (s : State) (ld cause : Nat) : State :=
  let owned := (s.lib.dir.filter (fun e => e.owned && e.holders == ldBit ld)).length
  let dir := (s.lib.dir.map (fun e => if e.holders &&& ldBit ld = 0 then e
    else { e with holders := e.holders &&& ~~~(ldBit ld), owned := false })).filter (fun e => e.holders != 0)
  let s := { s with
      lib := { s.lib with dir := dir, snoops := s.lib.snoops.filter (fun x => x.ld != ld)
                          waiting := s.lib.waiting.filter (fun r => r.ld != ld), hostDeaths := satAdd s.lib.hostDeaths 1 }
      host := { s.host with dead := if cause = 3 then s.host.dead ||| ldBit ld else s.host.dead } }
  libProgress (postT0 s 0x0702 5 (ld % 16 + cause % 16 * 2 ^ 4 + owned % 2 ^ 24 * 2 ^ 8))

/-- BI_TIMEOUT (R278) -/
def execBiTimeout (ld line : Nat) (s : State) : Host.Outcome State Fault Refusal :=
  .next (if snoopOut s ld line then hostDies s ld 3 else s)

/-! ### Flash (R272, R289 to R291, R326) -/

/-- A page that flash could not correct: every line of it poisoned, LIB_MEDIA (R291). -/
def mediaError (s : State) (p : Nat) : State :=
  let s := { s with
      lib := { s.lib with badPages := insertNat p s.lib.badPages, cachePoison := outPage p s.lib.cachePoison ++ rangeFrom (64 * p) 64 }
      err := { s.err with flashUe := satAdd s.err.flashUe 1 } }
  postT0 s 0x0705 5 (p % 2 ^ 30)

/-- A line of the cache put back as it was: whole and without poison. -/
def restoreLine (s : State) (x : Nat × List Byte) : State :=
  { s with lib := { s.lib with cache := memWrite 0 s.lib.cache (64 * x.1) x.2, cachePoison := s.lib.cachePoison.filter (· != x.1) } }

/-- The lines that hosts have returned to a page while it was read. -/
def freshLines (s : State) (p : Nat) : List (Nat × List Byte) :=
  (((pageOf s p).map (·.fresh)).getD []).map (fun l => (l, memBytes 0 s.lib.cache (64 * l) 64))

/-- A flash read of a page ends: its bytes in the cache page under the lines returned meanwhile, corrections counted. -/
def pageRead (s : State) (p : Nat) (r : EccResult) : State :=
  let t := loadPage (countFlashRead s 1) p
  let t := match r with
    | .clean => t
    | .corrected => { t with err := { t.err with flashCe := satAdd t.err.flashCe 1 } }
    | .uncorrectable => mediaError t p
  (freshLines s p).foldl restoreLine t

/-- A page that can be dropped at once: clean, in no transfer, and with no line that a host holds or owes. -/
def idlePage (s : State) (x : CachePage) : Bool :=
  !x.dirty && !x.writing && !x.filling && !x.evicting && !s.lib.dir.any (fun e => linePage e.line == x.page) &&
    !s.lib.snoops.any (fun q => linePage q.line == x.page)

/-- Room for one more cache page, where the cache is full by dropping an idle page, which one being open (log 41), or else by an eviction that begins. -/
def makeRoom (s : State) : State :=
  if s.lib.pages.length < cachePageMax s then s
  else
    let cands := s.lib.pages.filter (idlePage s)
    let r := drawRandom s (max 1 cands.length)
    match cands[r.1]? with
    | some v => dropPage r.2 v.page
    | none => evictOne s

/-- A dirty page sent to flash as it now stands; one being read waits for the read. -/
def writeBack (s : State) (p : Nat) : State :=
  match pageOf s p with
  | some x =>
    if x.dirty && !x.writing && !x.filling then
      emit (modPage s p (fun x => { x with dirty := false, writing := true, snap := memBytes 0 s.lib.cache (4096 * p) 4096
                                           snapPoison := inPage p s.lib.cachePoison })) (.flashProgram p)
    else s
  | none => s
/-- DIRTY_PAGE_WRITEBACK (R272) -/
def execDirtyPageWriteback (page : Nat) (s : State) : Host.Outcome State Fault Refusal := .next (writeBack s page)

/-- LIB.LIFE lowered: LIB_WEAR at each whole 10 % crossed; read-only at 0 % or with no spare block (R290). -/
def wear (s : State) (life : Nat) (spare : Bool) : State :=
  let old := s.lib.life
  let new := min old life
  let s := { s with lib := { s.lib with life := new, readOnly := s.lib.readOnly || new == 0 || !spare } }
  ((List.range 10).filter (fun i => decide (new ≤ 10 * i) && decide (10 * i < old))).foldl (fun s _ => postT0 s 0x0706 5 new) s

/-- The page programmed: flash holds what was sent; or the block retired and the page dirty again (R289). -/
def writeBackEnds (s : State) (p : Nat) (programmed : Bool) (life : Nat) (spare : Bool) : State :=
  match pageOf s p with
  | some x =>
    if !x.writing then s
    else
      let s := if programmed then
          modPage { s with lib := { s.lib with flash := memWrite 0 s.lib.flash (4096 * p) x.snap
                                               flashPoison := outPage p s.lib.flashPoison ++ x.snapPoison
                                               badPages := s.lib.badPages.filter (· != p)
                                               flashWr := wrapAdd64 s.lib.flashWr 4096 } } p
            (fun x => { x with writing := false, snap := [], snapPoison := [] })
        else
          modPage { s with lib := { s.lib with badBlocks := satAdd s.lib.badBlocks 1 } } p
            (fun x => { x with writing := false, dirty := true, snap := [], snapPoison := [] })
      libProgress (wear s life spare)
  | none => s

/-- WRITE_BACK_COMPLETE (R272, R289, R290) -/
def execWriteBackComplete (page : Nat) (programmed : Bool) (life : Nat) (spareLeft : Bool) (s : State) :
    Host.Outcome State Fault Refusal := .next (writeBackEnds s page programmed life spareLeft)

/-! ### LIB_PUBLISH and LIB_RETIRE (R280 to R283) -/

/-- Checks 2 to 6 of R280: 0, or the status. -/
def publishRefusal (s : State) (first pages : Nat) : Nat :=
  if !s.lib.isOpen then 0xC0
  else if pages = 0 || decide (libPages s < first + pages) then 0xC1
  else if s.lib.catalog.any (fun e => rangesMeet first pages e.first e.pages) then 0xC2
  else if 4096 ≤ s.lib.catalog.length then 0xC3
  else if s.lib.readOnly then 0xC4
  else 0

def publishDesc (s : State) (d : Desc) : State :=
  admin s d 0x40 (fun s =>
    let first := aArg0 d
    let n := aArg1 d
    let st := publishRefusal s first n
    if st ≠ 0 then adminDone s d st 0
    else
      let held := (s.lib.dir.filter (fun e => decide (first ≤ linePage e.line) && decide (linePage e.line < first + n))).map (·.line)
      libProgress (adminWait { s with lib := { s.lib with lock := some (first, n) } } d (.publish first n held false)))

/-- LIB_PUBLISH (R281) -/
def execLibPublish (d : Desc) (s : State) : Host.Outcome State Fault Refusal := .next (publishDesc s d)

def retireDesc (s : State) (d : Desc) : State :=
  admin s d 0x41 (fun s =>
    let same := fun (e : CatalogEntry) => e.first == aArg0 d && e.pages == aArg1 d
    if !s.lib.isOpen then adminDone s d 0xC0 0
    else if !s.lib.catalog.any same then adminDone s d 0xC6 0
    else if s.lib.recs.any (fun r => r.first == aArg0 d) then adminDone s d 0xC7 0
    else adminDone { s with lib := { s.lib with catalog := s.lib.catalog.filter (fun e => !same e) } } d 0 0)

/-- LIB_RETIRE (R283) -/
def execLibRetire (d : Desc) (s : State) : Host.Outcome State Fault Refusal := .next (retireDesc s d)

/-! ### Prefetch (R284 to R287) -/

/-- The HBM ranges of a record that hold bytes. -/
def recRanges (r : PrefetchRec) : List (Nat × Nat) := [(r.dest, r.destLen), (r.init, r.initLen)].filter (fun x => x.2 != 0)

/-- The record that a stage command asks for. -/
def recordFor (s : State) (d : Desc) (e : CatalogEntry) (id : Nat) : PrefetchRec :=
  let a := aArg0 d
  let m := imageMeta s e.first e.pages
  let sh0 := bitAt a 32
  let shp := bitAt a 34
  let pos := bitsOf a 45 35
  let len0 := if sh0 then (imgRange m 0).2 else 0
  let lenP := if shp then (imgRange m (2 + pos)).2 else 0
  let key := bitsOf (aArg2 d) 55 48
  { id := id, first := e.first, pages := e.pages, sh0 := sh0, sh1 := bitAt a 33, shp := shp, pos := pos
    follow := if bitAt a 46 then s.core.standby.map (·.setId) else none
    dest := aArg1 d, destLen := if shp then 4096 * ceilDiv len0 4096 + lenP else len0
    init := bitsOf (aArg2 d) 47 0, initLen := if bitAt a 33 then imgStateLen m else 0
    keySlot := key, running := true, cancelling := false, cancelAsked := false, owner := (keyOf s key).map (·.owner) }

/-- Step 5 of R284. -/
def recordPlaced (s : State) (r : PrefetchRec) : Bool :=
  (recRanges r).all (fun x => decide (2 ^ 22 ≤ x.1) && decide (x.1 + x.2 ≤ s.lib.stageLimit * 2 ^ 30) &&
    s.lib.recs.all (fun o => (recRanges o).all (fun y => !rangesMeet x.1 x.2 y.1 y.2)))

/-- The lowest record ID that is free (log 41). -/
def freeRecord (s : State) : Option Nat := (List.range 64).find? (fun i => !s.lib.recs.any (fun r => r.id == i))

def stageDesc (s : State) (d : Desc) : State :=
  adminAct s d 0x42 (bitsOf (aArg0 d) 31 30 == 0) (fun s =>
    if !s.lib.isOpen then adminDone s d 0xC0 0
    else match s.lib.catalog.find? (fun e => e.first == bitsOf (aArg0 d) 29 0) with
      | none => adminDone s d 0xC6 0
      | some e =>
        match (if (s.lib.recs.filter (·.running)).length < 8 then freeRecord s else none) with
        | none => adminDone s d 0xC8 0
        | some id =>
          let r := recordFor s d e id
          if !recordPlaced s r then adminDone s d 0xC9 0
          else if r.sh1 && (keyOf s r.keySlot).map (·.keyId) != some e.keyId then adminDone s d 0xCA 0
          else adminDone { s with lib := { s.lib with recs := s.lib.recs ++ [r] } } d 0 id)

/-- LIB_PREFETCH_STAGE (R284) -/
def execLibPrefetchStage (d : Desc) (s : State) : Host.Outcome State Fault Refusal := .next (stageDesc s d)

def recordOf (s : State) (id : Nat) : Option PrefetchRec := s.lib.recs.find? (fun r => r.id == id)

def modRecord (s : State) (id : Nat) (g : PrefetchRec → PrefetchRec) : State :=
  { s with lib := { s.lib with recs := s.lib.recs.map (fun r => if r.id = id then g r else r) } }

def zeroRecord (s : State) (r : PrefetchRec) : State := (recRanges r).foldl (fun s x => hbmZero s x.1 x.2) s

def freeRec (s : State) (id : Nat) : State := { s with lib := { s.lib with recs := s.lib.recs.filter (fun r => r.id != id) } }

/-- A running record's cancel is asked for once; its ADMIN_DONE follows the PREFETCH_END (R286). -/
def cancelDesc (s : State) (d : Desc) : State :=
  adminAct s d 0x42 (bitsOf (aArg0 d) 31 30 == 1) (fun s =>
    match recordOf s (aArg1 d) with
    | some r => if r.running then adminWait (modRecord s r.id (askCancel s)) d (.cancel r.id) else adminDone s d 0xCB 0
    | none => adminDone s d 0xCB 0)

/-- LIB_PREFETCH_CANCEL (R286) -/
def execLibPrefetchCancel (d : Desc) (s : State) : Host.Outcome State Fault Refusal := .next (cancelDesc s d)

/-- INIT_ADDR of a model entry of the active or armed plan lies in a record's INIT range. -/
def initInUse (s : State) (r : PrefetchRec) : Bool :=
  let names := fun (p : Option Plan) => match p with
    | some p => p.models.any (fun m => decide (r.init ≤ m.initAddr) && decide (m.initAddr < r.init + r.initLen))
    | none => false
  names s.core.active || (s.core.armed && names s.core.standby)

def unstageDesc (s : State) (d : Desc) : State :=
  adminAct s d 0x42 (bitsOf (aArg0 d) 31 30 == 2) (fun s =>
    match recordOf s (aArg1 d) with
    | none => adminDone s d 0xCB 0
    | some r => if r.running || initInUse s r then adminDone s d 0xC7 0 else adminDone (freeRec (zeroRecord s r) r.id) d 0 0)

/-- LIB_PREFETCH_UNSTAGE (R287) -/
def execLibPrefetchUnstage (d : Desc) (s : State) : Host.Outcome State Fault Refusal := .next (unstageDesc s d)

/-- The ADMIN_DONE of an explicit cancel of a record. -/
def cancelDone (s : State) (id : Nat) : State :=
  match s.admin with
  | some { d := d, work := .cancel i } => if i = id then adminDone s d 0 0 else s
  | _ => s

/-- PREFETCH_END (Table 14-7). -/
def postEnd (s : State) (id kind code : Nat) : State := postT0 s 0x0704 5 (id % 64 + kind * 2 ^ 8 + code % 256 * 2 ^ 16)

/-- The shards that a record stages, in ascending order. -/
def recShards (r : PrefetchRec) : List Nat :=
  (if r.sh0 then [0] else []) ++ (if r.sh1 then [1] else []) ++ (if r.shp then [2 + r.pos] else [])

/-- A byte range of the library with a page that flash cannot correct, or a poisoned line (R291). -/
def mediaBad (s : State) (lo n : Nat) : Bool :=
  let here := fun (b size : Nat) => decide (b * size < lo + n) && decide (lo < b * size + size)
  s.lib.badPages.any (fun p => here p 4096) ||
    (s.lib.cachePoison ++ s.lib.flashPoison.filter (fun l => (pageOf s (linePage l)).isNone)).any (fun l => here l 64)

/-- The END and check code of the shards in order (R210): absent, unreadable, or failing step 12. -/
def stageResult (s : State) (v : Mem) (base : Nat) (m : List Byte) : List Nat → Nat × Nat
  | [] => (0, 0)
  | i :: t =>
    let x := imgRange m i
    if imgShardCheck m i [] = 11 then (3, 11)
    else if mediaBad s (base + x.1) x.2 then (2, 0)
    else if imgShardCheck m i (memBytes 0 v (base + x.1) x.2) ≠ 0 then (3, 12)
    else stageResult s v base m t

/-- The initial state that a record opens, or its check code (R211). -/
def stageState (s : State) (v : Mem) (base : Nat) (m : List Byte) (r : PrefetchRec) : Except Nat (List Byte) :=
  if !r.sh1 then .ok []
  else
    let x := imgRange m 1
    let key := ((keyOf s r.keySlot).map (·.key)).getD (List.replicate 32 0)
    imgOpenState m key (imgShardBlocks m 1 (memBytes 0 v (base + x.1) x.2))

/-- What a record's reading and checks come to, in the order of R210: END and code, and the state opened (R285). -/
def stageEnd (s : State) (r : PrefetchRec) : Nat × Nat × List Byte :=
  let v := libView s
  let base := 4096 * r.first
  let m := imageMeta s r.first r.pages
  let c := imgCheck m (4096 * r.pages) (otherImages s r.first)
  if mediaBad s base 512 then (2, 0, [])
  else if c ≠ 0 && c ≤ 3 then (3, c, [])
  else if mediaBad s base m.length then (2, 0, [])
  else if c ≠ 0 then (3, c, [])
    else
      let e := stageResult s v base m (recShards r)
      if e.1 ≠ 0 then (e.1, e.2, [])
      else match stageState s v base m r with
        | .ok bytes => (0, 0, bytes)
        | .error c => (3, c, [])

/-- Where shard 2 + P is staged: from the next 4 KiB boundary after shard 0 (R285). -/
def shardBase (r : PrefetchRec) (m : List Byte) : Nat := r.dest + 4096 * ceilDiv (if r.sh0 then (imgRange m 0).2 else 0) 4096

/-- The staged bytes written: shard 0 to DEST, shard 2 + P from the next 4 KiB boundary, the state to INIT. -/
def stageWrite (s : State) (r : PrefetchRec) (state : List Byte) : State :=
  let v := libView s
  let base := 4096 * r.first
  let m := imageMeta s r.first r.pages
  let x0 := imgRange m 0
  let xP := imgRange m (2 + r.pos)
  let s := if r.sh0 then hbmWrite s r.dest (memBytes 0 v (base + x0.1) x0.2) else s
  let s := if r.shp then hbmWrite s (shardBase r m) (memBytes 0 v (base + xP.1) xP.2) else s
  if r.sh1 then hbmWrite s r.init state else s

/-- The ranges that a record writes, in the order in which it writes them. -/
def recWrites (s : State) (r : PrefetchRec) : List (Nat × Nat) :=
  let m := imageMeta s r.first r.pages
  (if r.sh0 then [(r.dest, (imgRange m 0).2)] else []) ++ (if r.shp then [(shardBase r m, (imgRange m (2 + r.pos)).2)] else []) ++
    (if r.sh1 then [(r.init, r.initLen)] else [])

/-- The first n bytes that a record writes, zeroed. -/
def zeroWritten : State → Nat → List (Nat × Nat) → State
  | s, _, [] => s
  | s, n, x :: t => zeroWritten (hbmZero s x.1 (min n x.2)) (n - x.2) t

/-- Library pages of the bytes lo to lo + n - 1 of an image. -/
def bytePages (r : PrefetchRec) (lo n : Nat) : List Nat :=
  if n = 0 then [] else rangeFrom (r.first + lo / 4096) (ceilDiv (lo + n) 4096 - lo / 4096)

/-- The pages of the shards that are read: those after a shard that fails are not. -/
def shardPages (s : State) (r : PrefetchRec) (v : Mem) (m : List Byte) : List Nat → List Nat
  | [] => []
  | i :: t =>
    let x := imgRange m i
    if imgShardCheck m i [] = 11 then []
    else bytePages r x.1 x.2 ++ (if (stageResult s v (4096 * r.first) m [i]).1 = 0 then shardPages s r v m t else [])

/-- The pages that a record reads, in the order of R210: the header, the metadata where steps 1 to 3 pass, the shards it stages where steps 4 to 10 pass. -/
def recPages (s : State) (r : PrefetchRec) : List Nat :=
  let m := imageMeta s r.first r.pages
  let c := imgCheck m (4096 * r.pages) (otherImages s r.first)
  let base := 4096 * r.first
  if mediaBad s base 512 || (c ≠ 0 && c ≤ 3) then [r.first]
  else bytePages r 0 m.length ++ (if mediaBad s base m.length || c ≠ 0 then [] else shardPages s r (libView s) m (recShards r))

/-- A page read from flash for a record into a cache page. The Bool tells whether it could be: where no cache page is free, an eviction begins. -/
def recReadPage (a : Bool × State) (p : Nat) : Bool × State :=
  if !a.1 || (pageOf a.2 p).isSome then a
  else
    let s := makeRoom a.2
    if cachePageMax s ≤ s.lib.pages.length then (false, libProgress s)
    else
      let s := countFlashRead s 1
      (true, if s.lib.badPages.contains p then s else addPage (loadPage s p) p false)

/-- A running record has read all it needs: what that comes to. Where the cache has no page free for it, the record goes on running. -/
def prefetchEnd (s : State) (id : Nat) : State :=
  match recordOf s id with
  | none => s
  | some r =>
    if !r.running || r.cancelling || !s.lib.isOpen then s
    else
      let e := stageEnd s r
      let a := (recPages s r).foldl recReadPage (true, s)
      if !a.1 then a.2
      else
        let s' := if e.1 = 0 then stageWrite a.2 r e.2.2 else zeroRecord a.2 r
        cancelDone (postEnd (modRecord s' id (fun r => { r with running := false, cancelAsked := false })) id e.1 e.2.1) id

/-- A record that reads a page: running, and for a page to be kept not cancelled. -/
def recordReads (s : State) (p : Nat) (kept : Bool) : Bool :=
  s.lib.recs.any (fun r => r.running && !(kept && r.cancelling) && (recPages s r).contains p)

/-- A flash read ends: of a page that a host missed, or of one that a record reads. After a cancel the page is freed unread (R286). Where the cache has no page free, an eviction begins and the read is made again. -/
def cacheFill (s : State) (p : Nat) (r : EccResult) : State :=
  match pageOf s p with
  | some x => if x.filling then libProgress (modPage (pageRead s p r) p (fun x => { x with filling := false, fresh := [] })) else s
  | none =>
    if !recordReads s p false || !s.lib.isOpen then s
    else if !recordReads s p true then dropPage (pageRead s p r) p
    else
      let s := makeRoom s
      if cachePageMax s ≤ s.lib.pages.length then libProgress s
      else addPage (pageRead s p r) p false

/-- CACHE_FILL (R270) -/
def execCacheFill (page : Nat) (r : EccResult) (s : State) : Host.Outcome State Fault Refusal := .next (cacheFill s page r)

/-- PREFETCH_END (R285) -/
def execPrefetchEnd (record : Nat) (s : State) : Host.Outcome State Fault Refusal := .next (prefetchEnd s record)

/-- A cancel that has taken effect completes: the bytes that the record has written are zeroed (R286). How many those are is open (log 62). -/
def cancelComplete (s : State) (id : Nat) : State :=
  match recordOf s id with
  | none => s
  | some r =>
    if r.running && r.cancelling then
      let ws := recWrites s r
      let n := drawRandom s (ws.foldl (fun a x => a + x.2) 0 + 1)
      cancelDone (postEnd (freeRec (zeroWritten n.2 n.1 ws) id) id 1 0) id
    else s

/-- CANCEL_COMPLETE (R286) -/
def execCancelComplete (record : Nat) (s : State) : Host.Outcome State Fault Refusal := .next (cancelComplete s record)

end Sys2Proof.Machine
end

