-- ==== Sys2Proof/Machine/Pending.lean ====
section
/-! DEFINITION. What waits for a boundary and takes effect at once while no boundaries run: disables and containment of
tenants, policy, cancels, the library share, closing streams, warm resets (R54, R69, R94, R106, R286, R304, R348). -/

namespace Sys2Proof.Machine

/-! ### Keys in use (R98) -/

/-- A plan names a tenant key slot. -/
def planNamesKey (p : Option Plan) (k : Nat) : Bool :=
  match p with
  | some p => p.keys.testBit k
  | none => false

/-- A tenant key slot named by the active plan or by the plan in the standby buffer; an operator slot never is. -/
def keyInUse (s : State) (k : Nat) : Bool :=
  decide (k < 256) && (planNamesKey s.core.active k || planNamesKey s.core.standby k)

/-! ### Tenants (R94, R106) -/

/-- TENANT_STATE on the tenant's own event ring (Table 5-10). -/
def tenantState (s : State) (t value : Nat) : State := post s t { evOf 0x0201 2 value with tenant := t }

/-- A disable takes effect: streams closed, TENANT_STATE 3 where the event ring is enabled. -/
def disableTenant (s : State) (t : Nat) : State :=
  let s := setTen s t { tenOf s t with enabled := false, disabling := false }
  let s := endTenant s t 1
  if (ringOf s t 2).enable then tenantState s t 3 else s

def applyDisables (s : State) : State :=
  ((s.ten.recs.filter (fun x => x.2.disabling)).map (·.1)).foldl disableTenant s

/-- Every stream of a tenant paused, as by a PAUSE at boundary k. -/
def pauseTenant (k : Nat) (s : State) (t : Nat) : State :=
  (streamsOf s t).foldl (fun s i => resync (pauseStream s i k) i) s

/-- Quarantine: every stream of the tenant paused at boundary k. -/
def quarantine (s : State) (t k : Nat) : State := pauseTenant k (setTen s t { tenOf s t with quarantined := true }) t

/-- Streams of a tenant in quarantine stay paused, also where a control accepted before it would have bound or resumed one at boundary k (R106). -/
def keepQuarantine (s : State) (k : Nat) : State :=
  ((s.ten.recs.filter (fun x => x.2.quarantined)).map (·.1)).foldl (pauseTenant k) s

/-- Key slots that a tenant owns. -/
def ownedKeys (s : State) (t : Nat) : List Nat :=
  (s.ten.keys.filter (fun x => decide (x.1 < 256) && x.2.owner == t)).map (·.1)

/-- Evict: streams closed, ENABLED 0, owned slots that no plan names cleared. The status is KEY_IN_USE where one is named. -/
def evict (s : State) (t : Nat) : Nat × State :=
  let s := setTen s t { tenOf s t with enabled := false, disabling := false }
  let s := endTenant s t 2
  let owned := ownedKeys s t
  let s' := (owned.filter (fun k => !keyInUse s k)).foldl clearKey s
  (if owned.any (keyInUse s) then 0x87 else 0, s')

/-- TENANT_CONTAIN takes effect at boundary k. -/
def applyContain (s : State) (k : Nat) : State :=
  match s.admin with
  | some { d := d, work := .contain t action } =>
    if action = 0 then adminDone (tenantState (quarantine s t k) t 0) d 0 0
    else if action = 1 then adminDone (tenantState (setTen s t { tenOf s t with quarantined := false }) t 1) d 0 0
    else
      let e := evict s t
      adminDone (tenantState e.2 t 2) d e.1 0
  | _ => s

/-! ### Policy, library, warm reset -/

/-- POWER_POLICY's fields take effect (R304). -/
def applyPolicy (s : State) : State :=
  let s := match s.pwr.policyNext with
    | some p => { s with pwr := { s.pwr with policy := p, policyNext := none } }
    | none => s
  match s.admin with
  | some { d := d, work := .policy } => adminDone s d 0 0
  | _ => s

/-- LIB.HBM_SHARE takes effect (R348). -/
def applyShare (s : State) : State :=
  match s.lib.shareNext with
  | some v => { s with lib := { s.lib with share := v, shareNext := none } }
  | none => s

/-- Cancels accepted take effect (R286). -/
def applyCancels (s : State) : State :=
  { s with lib := { s.lib with recs := s.lib.recs.map (fun r => if r.cancelAsked then { r with cancelling := true } else r) } }

/-- A warm reset asked for falls due: the chip is absent from now on, and enters reset after the recall and flush (R69). -/
def warmDue (s : State) : State :=
  match s.boot.warm with
  | none => s
  | some w => libProgress { s with boot := { s.boot with warm := some { w with due := true } } }

/-- A warm reset asked for that no boundary has reached yet. -/
def warmWaits (s : State) : Bool :=
  match s.boot.warm with
  | some w => !w.due
  | none => false

/-- A warm reset asked for: at the next boundary, or at once while no boundaries run (R69). One already asked for stands, and serves every request. -/
def askWarm (s : State) (source : WarmSource) (flush : Bool) : State :=
  if s.boot.warm.isSome then s
  else
    let s := { s with boot := { s.boot with warm := some { source := source, due := false, flush := flush } } }
    let s := if flush then recallLines s (fun _ => true) else s
    if timeRuns s then s else warmDue s

/-- A warm reset without recall and flush, which a fault or a boot that fails asks for (R55, R65, R313, Table 17-3). It takes the place of one asked for before. -/
def askFaultWarm (s : State) : State :=
  let s := { s with boot := { s.boot with warm := some { source := .fault, due := resetDue s, flush := false } } }
  if timeRuns s then s else warmDue s

/-- Grove time stops running: what waited for a boundary takes effect at once where its rule says so. Streams of functions that were reset wait for the first boundary that is generated again (R54, R353). -/
def actNow (s : State) : State :=
  let s := applyDisables s
  let s := applyContain s (s.tick.index + 1)
  let s := applyPolicy s
  let s := applyShare s
  let s := applyCancels s
  warmDue s

end Sys2Proof.Machine
end

