-- ==== Sys2Proof/Machine/Time.lean ====
section
/-! DEFINITION. Grove time: roots, the exchange with the parent, holdover, and what PEER_UP and PEER_DOWN tell (13; R237, R249, R257 to R267). -/

namespace Sys2Proof.Machine

/-! ### Ticks that follow from grove time (R107, R352) -/

/-- Descriptors of function n that reached the SK6 and are not validated yet (R352). -/
def unvalidated (f : FnState) : Bool :=
  !f.fetched.isEmpty || (ringIn f 0).fetching || decide ((ringIn f 0).devIdx < ringCount (ringIn f 0))

/-- What is posted for an intake that has ended: RATE_SUMMARY and TENANT_ABUSE (R95, R105). -/
def postTally (s : State) (n : Nat) (t : Tally) : State :=
  let s := if t.rateLimited = 0 then s else post s n { evOf 0x0204 2 (t.rateLimited % 2 ^ 32) with tenant := n }
  if t.refused ≤ 1024 then s else post s 0 { evOf 0x0202 2 (n + min t.refused 0xFFFFFF * 2 ^ 8) with tenant := n }

/-- The intake that ended at the last cut is counted whole: its boundary has come. -/
def endTally (s : State) (n : Nat) : State :=
  match (fnOf s n).late with
  | some t => postTally (modFn s n (fun f => { f with late := none })) n t
  | none => s

/-- What a cut does for one function: RATE_SUMMARY, TENANT_ABUSE, and the counts of the next intake. Where descriptors of the ended intake are still to be validated, its counts wait for them, to the boundary at the latest (R352; log 58). -/
def cutFn (s : State) (n : Nat) : State :=
  let s := endTally s n
  let f := fnOf s n
  let s := if unvalidated f then modFn s n (fun f => { f with late := some f.tally }) else postTally s n f.tally
  modFn s n (fun f => { f with tally := { Tally.reset with maxFrames := (tenOf s n).maxFrames } })

def fnIds (s : State) : List Nat := s.host.fns.map (·.1)

/-- The intake of tick k opens. -/
def openIntake (s : State) (k : Nat) : State :=
  let s := (fnIds s).foldl cutFn s
  { s with tick := { s.tick with intake := k } }

/-- Every intake that a descriptor joined renumbered, and no window later than the one after tick k. -/
def renumber (s : State) (g : Nat → Nat) (k : Nat) : State :=
  let str := s.str
  { s with
      str := { str with
        table := str.table.map (fun x => (x.1, { x.2 with pending := x.2.pending.map (fun f => { f with intake := g f.intake }) }))
        ctl := str.ctl.map (fun c => { c with intake := g c.intake })
        due := str.due.map (fun r => { r with window := min r.window (k + 1) }) }
      host := { s.host with fns := s.host.fns.map (fun x => (x.1, { x.2 with
        fetched := x.2.fetched.map (fun e => (g e.1, e.2))
        rings := x.2.rings.map (fun r => { r with marks := r.marks.map (fun m => (m.1, g m.2)) }) })) } }

/-- The tick index and the open intake that grove time gives: k = floor (now / T), and the cut 0.5 ms before the next boundary. Descriptors whose boundary had come keep their places as deferred; those that waited for the next boundary, and all that came while no boundaries ran when `fresh`, belong to the intake that boundary k + 1 applies (R352). A cut that grove time has passed takes place. -/
def restartTicks (s : State) (fresh : Bool) : State :=
  let old := s.tick.index
  let k := s.time.now / periodNs s
  let pastCut := decide (periodNs s - 500000 ≤ s.time.now % periodNs s)
  let passed := pastCut && (fresh || decide (s.tick.intake ≤ old))
  let open_ := if pastCut && !passed then k + 1 else k
  let s := renumber s (fun i => if i < old then min i (k - 1) else if fresh || i = old then k else open_) k
  let s := { s with tick := { s.tick with index := k, intake := open_ } }
  if passed then openIntake s (k + 1) else s

/-- Boundaries stop: what waits for one waits for the first that is generated again, as one intake (R352). -/
def stopTicks (s : State) : State :=
  let k := s.tick.index
  let s := renumber s (fun i => min i k) k
  { s with tick := { s.tick with intake := k } }

/-- With no command waiting one ns passes, up to the last ns before an intake cut or a boundary, which only INTAKE_CUT and TICK_BOUNDARY cross (log 2). -/
def idle (s : State) : State :=
  if serviceUp s && beforeBoundary s (timeAfter s 1 / 1000000) then passTime s 1 else s

/-! ### States and roots -/

/-- TIME_STATE (Table 13-4). -/
def postTimeState (s : State) : State := postT0 s 0x0601 5 (s.time.st.code + b2n s.time.groveRoot * 4)

/-- A new time state: boundaries begin or stop with it (Table 13-1). -/
def setTimeState (s : State) (st : TimeState) : State :=
  if s.time.st = st then s
  else
    let ran := timeRuns s
    let s := postTimeState { s with time := { s.time with st := st } }
    if timeRuns s && !ran then restartTicks s true
    else if !timeRuns s && ran then actNow (stopTicks s)
    else s

/-- TIME.STATE.GROVE_ROOT, posted when it changes. -/
def setGroveRoot (s : State) (b : Bool) : State :=
  if s.time.groveRoot = b then s else postTimeState { s with time := { s.time with groveRoot := b } }

/-- Whether a chip is up, as PEER_UP and PEER_DOWN report. -/
def chipUp (s : State) (c : Nat) : Bool :=
  c == s.link.chipId || (match tabFind s.link.up c with
    | some m => m != 0
    | none => false)

/-- The up chip of this grove with the lowest ID, not counting one chip. -/
def lowestUp (s : State) (except : Option Nat) : Nat :=
  let ids := (s.link.chipId :: s.link.up.map (·.1)).filter (fun c =>
    c / 128 == s.link.chipId / 128 && chipUp s c && some c != except)
  ids.foldl min 2047

/-- This chip's grove is that of the time root, or of the root that was lost. -/
def inRootGrove (s : State) : Bool := decide (s.time.rootId / 128 = s.link.chipId / 128)

/-- The root of this chip's grove: the chip that took the role, while it is up; else the time root when it is of this grove; else the lowest up chip, not counting a root of this grove that was lost (R258). -/
def groveRootOf (s : State) : Nat :=
  match s.time.taker with
  | some t => t
  | none =>
    if !inRootGrove s then lowestUp s none
    else if s.time.hasRoot then s.time.rootId else lowestUp s (some s.time.rootId)

/-- A parent, reached by its lowest port; the ports barred are those of the parent before. -/
def setParent (s : State) (chip : Option Nat) : State :=
  let s := if s.time.parent.map (·.1) = chip then s else { s with time := { s.time with barred := [] } }
  { s with time := { s.time with parent := chip.map (fun c => (c, (portTo s c).getD 0)) } }

/-- In the grove of a root that was lost, the chip that takes the grove-root role keeps it (R258). -/
def chooseTaker (s : State) : State :=
  if !s.time.hasRoot && inRootGrove s then { s with time := { s.time with taker := some (groveRootOf s) } } else s

/-- The parent that the roots known give (13, "Roots"). With the root lost the grove root has no parent, and the others take it as theirs (R258). A chip that has held no root since it lost sync looks for none. -/
def recomputeParent (s : State) : State :=
  if !s.time.hasRoot && s.time.st == .unsync then s
  else
    let s := chooseTaker s
    let me := s.link.chipId
    if s.time.hasRoot && s.time.rootId == me then setParent (setGroveRoot s true) none
    else if groveRootOf s = me then setParent (setGroveRoot s true) (if s.time.hasRoot then some s.time.rootId else none)
    else setParent (setGroveRoot s false) (some (groveRootOf s))

/-- The grove-root role that a chip took ends when it goes down (R258). -/
def dropTaker (s : State) : State :=
  match s.time.taker with
  | some t => if chipUp s t then s else { s with time := { s.time with taker := none } }
  | none => s

/-- A chip adopts a root (R261). -/
def adopt (s : State) (x : Nat) : State :=
  let s := { s with time := { s.time with hasRoot := true, rootId := x } }
  let s := recomputeParent (postT0 s 0x0602 5 x)
  if s.time.st = .root then setTimeState s .sync else s

/-- A candidate enters ROOT with its own grove time (R260). -/
def becomeRoot (s : State) : State :=
  let me := s.link.chipId
  let s := { s with time := { s.time with hasRoot := true, rootId := me, groveRoot := true, parent := none, request := none } }
  setTimeState (postT0 s 0x0602 5 me) .root

/-- The root is lost: in its grove the lowest up chip takes the grove-root role, unless one holds it, and keeps it while it is up (R258). -/
def loseRoot (s : State) : State :=
  if !s.time.hasRoot then s
  else
    let taker := if s.time.taker = some s.time.rootId then none else s.time.taker
    recomputeParent { s with time := { s.time with hasRoot := false, taker := taker } }

/-- A plan is active or armed. -/
def planBinds (s : State) : Bool := s.core.active.isSome || s.core.armed

/-- X is better than the receiver's root R (R261). -/
def betterRoot (s : State) (x xid : Nat) : Bool :=
  let t := s.time.now
  decide (t + 1000000 < x) || (decide (x ≤ t + 1000000) && decide (t ≤ x + 1000000) && decide (xid < s.time.rootId))

/-- Two times that differ by more than 1 µs. -/
def farApart (a b : Nat) : Bool := decide (a + 1000 < b) || decide (b + 1000 < a)

/-- An ANNOUNCE of chip X carrying TIME x (R261). One with the TIME of that chip's last ANNOUNCE is a copy of it (R259). -/
def hearAnnounce (s : State) (xid x : Nat) : State :=
  if xid = s.link.chipId || tabFind s.time.announces xid == some x then s
  else
    let s := { s with time := { s.time with announces := tabSet xid x s.time.announces } }
    if s.time.hasRoot && (xid == s.time.rootId || !betterRoot s x xid) then s
    else if planBinds s && farApart x s.time.now then postT0 s 0x0603 5 (xid + x * 2 ^ 64)
    else adopt s xid

def announceIn (s : State) (p : Nat) (u : RawUnit) : State :=
  receiveMsg s p u 0x50 (fun h s => hearAnnounce s (bodyAt h 32 2) (bodyAt h 24 8))

/-- ANNOUNCE (R261) -/
def execAnnounce (port : Nat) (u : RawUnit) (s : State) : Host.Outcome State Fault Refusal := .next (announceIn s port u)

def announceBody (s : State) : List Byte := leBytes 8 s.time.now ++ leBytes 2 s.link.chipId ++ leBytes 1 (b2n (timeRuns s))

def announceSend (s : State) : State :=
  if s.time.st = .root then (activePorts s).foldl (fun s p => sendHop s p 0x50 (announceBody s)) s else s

/-- ANNOUNCE_SEND (R259) -/
def execAnnounceSend (s : State) : Host.Outcome State Fault Refusal := .next (announceSend s)

/-- No ANNOUNCE heard for the time of R258 or R260. In UNSYNC the time counts from the end of discovery. -/
def announceTimeout (s : State) : State :=
  if !mainOn s then s
  else match s.time.st with
    | .root => s
    | .unsync => if discovered s then becomeRoot s else s
    | _ =>
      let s := loseRoot s
      if s.time.groveRoot then becomeRoot s else s

/-- ANNOUNCE_TIMEOUT (R258, R260) -/
def execAnnounceTimeout (s : State) : Host.Outcome State Fault Refusal := .next (announceTimeout s)

/-! ### The exchange (R262 to R264) -/

/-- SYNC_REQ to the parent on the lowest ACTIVE port that reaches it. -/
def syncReqSend (s : State) : State :=
  match s.time.parent with
  | none => s
  | some (chip, _) =>
    match portTo s chip with
    | none => s
    | some p =>
      let xid := (s.time.xid + 1) % 2 ^ 32
      sendSync { s with time := { s.time with xid := xid } } chip p xid

/-- SYNC_REQ_SEND (R263) -/
def execSyncReqSend (s : State) : Host.Outcome State Fault Refusal := .next (syncReqSend s)

/-- The port that a routed answer to a chip leaves by: the one it was asked on while that is ACTIVE, else the lowest that reaches the chip (R240, R247). -/
def answerPort (s : State) (p chip : Nat) : Option Nat :=
  if isActive s p then some p else (activePorts s).find? (reaches s chip)

/-- A parent answers: T1 echoed, T2, T3, CORR_REQ, XID, ROOT_ID, STATE (Table 13-2). T3 is written as the answer leaves (R262). -/
def syncReqIn (s : State) (p : Nat) (u : RawUnit) : State :=
  receiveMsg s p u 0x51 (fun h s => match answerPort s p h.src with
    | none => s
    | some q => sendPlain s q h.src 0x52 (leBytes 8 (bodyAt h 24 8) ++ leBytes 8 s.time.now ++ leBytes 8 s.time.now ++
      leBytes 4 (bodyAt h 32 4) ++ leBytes 4 0 ++ leBytes 4 (bodyAt h 36 4) ++ leBytes 2 s.time.rootId ++ leBytes 1 s.time.st.code))

/-- SYNC_REQ (R262) -/
def execSyncReq (port : Nat) (u : RawUnit) (s : State) : Host.Outcome State Fault Refusal := .next (syncReqIn s port u)

/-- A sample: delay and offset in 1/32 ns (R263). -/
structure Sample where
  delay : Int
  offset : Int
  deriving DecidableEq, Repr

/-- The formulas of R263; CORR fields are in 1/16 ns. -/
def sampleOf (t1 t2 t3 t4 corrReq corr : Nat) : Sample :=
  let i := fun (n : Nat) => (n : Int)
  { delay := ((i t4 - i t1) - (i t3 - i t2)) * 16 - i corrReq - i corr
    offset := ((i t2 - i t1) * 16 - i corrReq) - ((i t4 - i t3) * 16 - i corr) }

/-- A sample whose delay exceeds the least of the last 16 by more than 10 ns. -/
def slowSample (s : State) (x : Sample) : Bool :=
  s.time.delays.any (fun d => decide (d + 320 < x.delay))

/-- An offset in whole ns: a fraction of a ns goes to either neighbour (log 17). -/
def wholeNs (s : State) (x : Int) : Int × State :=
  if x % 32 = 0 then (x / 32, s)
  else
    let d := drawRandom s 2
    (x / 32 + (d.1 : Int), d.2)

/-- Grove time stepped by an offset (R264). -/
def stepTime (s : State) (ns : Int) : State :=
  let s := { s with time := { s.time with now := ((s.time.now : Int) + ns).toNat, steps := satAdd s.time.steps 1 } }
  if timeRuns s then restartTicks s false else s

/-- A sample accepted: trimmed away, stepped away, or a TIME_FAULT (R263 to R265). The trim in ppm is the offset in ns, so that 1 ms removes it, within ±200 ppm (R257). -/
def acceptSample (s : State) (x : Sample) : State :=
  let n := wholeNs s x.offset
  let s := { n.2 with time := { n.2.time with offset := max (-(2 ^ 31 - 1) : Int) (min (2 ^ 31 - 1 : Int) n.1) } }
  if decide (32000 < x.offset) || decide (x.offset < -32000) then
    let s := if s.time.st == TimeState.holdover then setTimeState s .sync else s
    if planBinds s then timeFault s 2 else stepTime s n.1
  else setTimeState { s with time := { s.time with trim := max (-200 : Int) (min (200 : Int) n.1) } } .sync

/-- SYNC_RESP of the outstanding request: a sample judged. -/
def syncRespIn (s : State) (p : Nat) (u : RawUnit) : State :=
  receiveMsg s p u 0x52 (fun h s =>
    match s.time.request with
    | none => s
    | some xid =>
      if xid ≠ bodyAt h 56 4 then s
      else
        let x := sampleOf (bodyAt h 24 8) (bodyAt h 32 8) (bodyAt h 40 8) s.time.now (bodyAt h 48 4) (bodyAt h 52 4)
        let slow := slowSample s x
        let s := { s with time := { s.time with request := none, delays := (x.delay :: s.time.delays).take 16 } }
        if slow || bodyAt h 62 1 = 0 then s else acceptSample s x)

/-- SYNC_RESP (R263 to R265) -/
def execSyncResp (port : Nat) (u : RawUnit) (s : State) : Host.Outcome State Fault Refusal := .next (syncRespIn s port u)

/-! ### Holdover (R266, R267) -/

def enterHoldover (s : State) : State :=
  if s.time.st = .sync then setTimeState { s with time := { s.time with holdovers := satAdd s.time.holdovers 1 } } .holdover else s

/-- HOLDOVER (R266) -/
def execHoldover (s : State) : Host.Outcome State Fault Refusal := .next (enterHoldover s)

def holdoverExpiry (s : State) : State :=
  if s.time.st = .holdover then
    let s := setTimeState s .unsync
    if s.core.active.isSome then timeFault s 1 else s
  else s

/-- HOLDOVER_EXPIRY (R266, R267) -/
def execHoldoverExpiry (s : State) : Host.Outcome State Fault Refusal := .next (holdoverExpiry s)

/-! ### PEER_UP and PEER_DOWN (R237, R249, R258) -/

/-- Both LSNs for a peer on a port set to 0; steward messages outstanding to it move on. -/
def resetPeer (s : State) (p peer : Nat) : State :=
  let x := portOf s p
  let lost := x.units.filter (fun v => v.peer == peer && v.tag != tagNone && !planUnit v)
  let s := setPort s p { x with lsnTx := tabErase peer x.lsnTx, lsnRx := tabErase peer x.lsnRx
                                nakSent := tabErase peer x.nakSent
                                units := x.units.filter (fun v => v.peer != peer || v.tag == tagNone) }
  lost.foldl (fun s v => resend s p v) s

/-- The planes on which a chip is up, after a report. -/
def upMask (s : State) (chip plane : Nat) (up : Bool) : BitVec 8 :=
  let old := (tabFind s.link.up chip).getD (if up then 0 else 0xFF)
  let bit : BitVec 8 := BitVec.ofNat 8 (2 ^ plane)
  if up then old ||| bit else old &&& ~~~bit

/-- A report of a switch: LSNs reset, the event posted. -/
def peerReport (s : State) (chip plane : Nat) (up : Bool) : State :=
  let s := resetPeer s plane chip
  let s := { s with link := { s.link with up := tabSet chip (upMask s chip plane up) s.link.up }
                    time := { s.time with barred := s.time.barred.filter (fun q => !(up && q == plane && s.time.parent.map (·.1) == some chip)) } }
  postT0 (dropTaker s) 0x0504 5 (chip + plane * 2 ^ 16 + b2n up * 2 ^ 19)

def peerUpIn (s : State) (p : Nat) (u : RawUnit) : State :=
  receiveMsg s p u 0x43 (fun h s => recomputeParent (peerReport s (bodyAt h 24 2) (bodyAt h 26 1) true))

/-- PEER_UP (R237, R255) -/
def execPeerUp (port : Nat) (u : RawUnit) (s : State) : Host.Outcome State Fault Refusal := .next (peerUpIn s port u)

/-- A chip is reported down on the plane of every ACTIVE port. -/
def downEverywhere (s : State) (chip : Nat) : Bool := (activePorts s).all (fun p => !reaches s chip p)

def peerDown (s : State) (chip plane : Nat) : State :=
  let s := peerReport s chip plane false
  let s := if planUses s plane && (ringPartners s).contains chip then linkFault s 2 plane chip else s
  if s.time.hasRoot && s.time.rootId == chip && s.time.st != .root && downEverywhere s chip then loseRoot s
  else recomputeParent s

def peerDownIn (s : State) (p : Nat) (u : RawUnit) : State :=
  receiveMsg s p u 0x44 (fun h s => peerDown s (bodyAt h 24 2) (bodyAt h 26 1))

/-- PEER_DOWN (R237, R249, R258) -/
def execPeerDown (port : Nat) (u : RawUnit) (s : State) : Host.Outcome State Fault Refusal := .next (peerDownIn s port u)

end Sys2Proof.Machine
end

