-- ==== Sys2Proof/Machine/Boot.lean ====
section
/-! DEFINITION. Power, clocks, resets and the boot path (02, 03, 16: R30 to R69, R307 to R314, R325, R331, R333). -/

namespace Sys2Proof.Machine

/-! ### Log time and anchors (R331) -/

/-- ANCHOR: log time in µs, grove time, chip ID and VALID. -/
def writeAnchor (s : State) : State :=
  let s := logOnly s (evOf 0x0A10 5 (s.time.logNs / 1000 % 2 ^ 64 + stampNow s % 2 ^ 64 * 2 ^ 64 + chipIdReg s * 2 ^ 128))
  { s with err := { s.err with anchorNs := s.time.logNs } }

/-- A new debug challenge (R338); debug is locked. -/
def lockDebug (s : State) : State :=
  let s := newChallenge s
  { s with err := { s.err with unlocked := false } }

/-- ANCHOR (R331): 3,600 s of log time after the last one. -/
def anchorDue (s : State) : State :=
  if s.boot.phase == .held then s
  else
    let t := s.err.anchorNs + 3600000000000
    let d := t - s.time.logNs
    if !mainOn s || beforeBoundary s (timeAfter s d / 1000000) then writeAnchor (passTime s d) else s

/-- ANCHOR (R331) -/
def execAnchor (s : State) : Host.Outcome State Fault Refusal := .next (anchorDue s)

/-! ### What the main domains lose -/

/-- Link counters are kept (R333, Table 12-8). -/
def portKept (x : Port) : Port :=
  { Port.reset with bytesTx := x.bytesTx, bytesRx := x.bytesRx, replays := x.replays, naks := x.naks, fecCorr := x.fecCorr
                    fecUncorr := x.fecUncorr, discard := x.discard, retry := x.retry, downs := x.downs }

/-- The library after its cache and directory are lost: flash, catalogue, counters and CACHE_GIB are kept (Table 3-2, R333). Scanning stops with the main domains; it starts again with the firmware (R66), and the manual does not say that it does where the supply alone comes back, so that the window then stays closed until the firmware starts again: the model's choice (log 90). -/
def libKept (l : Lib) : Lib :=
  { Lib.reset with cacheGib := l.cacheGib, cacheGibInUse := l.cacheGib, readOnly := l.readOnly, life := l.life, flashLife := l.flashLife, flashSpent := l.flashSpent, badBlocks := l.badBlocks
                   hostDeaths := l.hostDeaths, writesRefused := l.writesRefused, flashRd := l.flashRd, flashWr := l.flashWr
                   flash := l.flash, badPages := l.badPages, flashPoison := l.flashPoison, catalog := l.catalog }

/-- The host link drops. -/
def linkGone (s : State) : State := if s.host.linkUp then emit s (.link false) else s

/-- The main domains in reset: everything they hold takes its reset value, but for counters, RWS fields and flash (Tables 3-2, 3-5; R333). -/
def clearMain (s : State) : State :=
  let s := linkGone s
  { s with
      boot := { s.boot with ready := false, hbmOk := false, hbmFailed := 0, healthy := false, cfgRead := false, cfgWrote := false
                            memActive := false, warm := none }
      host := HostPort.reset, ten := Tenants.reset, str := Streams.reset, tick := Tick.reset, core := Core.reset, mem := Memory.reset
      knot := { Knots.reset with dumpsLost := s.knot.dumpsLost }
      sap := { Sap.reset with voided := s.sap.voided, bytesOut := s.sap.bytesOut, bytesIn := s.sap.bytesIn, late := s.sap.late
                              checkFail := s.sap.checkFail, lastCheck := s.sap.lastCheck }
      link := { Link.reset with ports := s.link.ports.map portKept }
      time := { Time.reset with steps := s.time.steps, holdovers := s.time.holdovers, logNs := s.time.logNs }
      lib := libKept s.lib
      pwr := { Power.reset with cap := s.pwr.cap, capNext := s.pwr.capNext, deferrals := s.pwr.deferrals, energy := s.pwr.energy
                                effecter := s.pwr.effecter, brakeLatch := s.pwr.brakeLatch }
      err := { s.err with unlocked := false }
      dbg := Dbg.reset, admin := none }

/-- Pool scrub: every byte zero, every slot free and untagged (R60). -/
def poolScrub (s : State) : State :=
  { s with mem := { s.mem with pool := [], poolPoison := [] }, core := { s.core with slots := [] } }

/-! ### Cold reset (R52, R53) -/

/-- AON_RST_N low, or an AON rail lost: what survives is fuses, the two flashes, the stored fault records and what stands outside the chip. -/
def coldReset (s : State) (railLost : Bool) : State :=
  let r := State.reset
  let s' := linkGone s
  { r with
      fuse := s.fuse
      pin := { r.pin with aonRails := !railLost, perstN := s.pin.perstN, refclkOk := s.pin.refclkOk, brakeLow := s.pin.brakeLow
                          tj := s.pin.tj, thbm := s.pin.thbm }
      stw := { r.stw with spi := s.stw.spi, recCount := s.stw.recCount }
      lib := { r.lib with flash := s.lib.flash, badPages := s.lib.badPages, flashPoison := s.lib.flashPoison, flashLife := s.lib.flashLife
                          flashSpent := s.lib.flashSpent, catalog := s.lib.catalog }
      err := { r.err with store := s.err.store, storeHeader := s.err.storeHeader }
      out := s'.out, draws := s.draws, pending := s.pending }

/-- COLD_RESET (R52) -/
def execColdReset (railLost : Bool) (s : State) : Host.Outcome State Fault Refusal := .next (coldReset s railLost)

/-- A fault or state reported over the service port: a chip-fault kind, or 0 for test mode (log 91). -/
def serviceReport (s : State) (code value : Nat) : State := emit s (.service 1 code (leBytes 4 value))

/-- AON_RST_N rises: straps sampled, log time starts, the heartwood ROM runs; test mode is reported (R37, R39, R58, R331). -/
def aonRelease (s : State) (bootSrc svc : Nat) (test : Bool) : State :=
  if s.boot.phase != .held then s
  else
    let strap := bootSrc % 4 + svc % 8 * 16 + b2n test * 128
    let s := { s with
        pin := { s.pin with aonRstN := true, aonRails := true }
        boot := { s.boot with strap := BitVec.ofNat 32 strap, phase := .rom, kind := 0, cold := true, releaseNs := 0 }
        time := { s.time with logNs := 0 } }
    let s := writeAnchor (lockDebug s)
    if test then serviceReport s 0 1 else s

/-- AON_RST_N_RELEASE (R37) -/
def execAonRstNRelease (bootSrc svcAddr : Nat) (testMode : Bool) (s : State) : Host.Outcome State Fault Refusal :=
  .next (aonRelease s bootSrc svcAddr testMode)

/-- BOOT_SRC (Table 2-5). -/
def bootSrc (s : State) : Nat := s.boot.strap.toNat % 4

/-- DYNAMIC_ADDRESS_ASSIGNMENT (R37): the rack manager gives the service port an address. -/
def execDynamicAddressAssignment (address : Nat) (s : State) : Host.Outcome State Fault Refusal :=
  .next (if serviceUp s && decide (address < 128) then emit { s with pin := { s.pin with svcAddr := some address } } (.i3c address) else s)

/-! ### Main supply and clocks (R30, R36, R50, R51, R60) -/

/-- The steward may raise MAIN_EN (R30, R38, R39, R50). -/
def mayRaiseMain (s : State) : Bool :=
  s.boot.phase != .held && !testMode s && bootSrc s != 3 && !s.pin.thermtrip && s.boot.dom == .off

def raiseMain (s : State) : State := { s with pin := { s.pin with mainEn := true } }

/-- MAIN_EN (R30) -/
def execMainEn (s : State) : Host.Outcome State Fault Refusal :=
  .next (if mayRaiseMain s && !s.boot.supplyHold && !s.pin.mainEn then raiseMain s else s)

/-- Standby after a supply fault: MAIN_EN low until the rack manager asks. -/
def supplyDown (s : State) : State :=
  { s with pin := { s.pin with mainEn := false, mainPg := false }
           boot := { s.boot with supplyHold := true, dom := .off, clockOk := false } }

/-- MAIN_PG_TIMEOUT (R30) -/
def execMainPgTimeout (s : State) : Host.Outcome State Fault Refusal :=
  .next (if s.pin.mainEn && !s.pin.mainPg then chipFault (supplyDown s) 4 else s)

/-- MAIN_PG (R36): the main domains have power and are held in reset for the clock check. -/
def execMainPg (s : State) : Host.Outcome State Fault Refusal :=
  .next (if s.pin.mainEn && !s.pin.mainPg && s.boot.dom == .off then
    { s with pin := { s.pin with mainPg := true }, boot := { s.boot with dom := .reset } } else s)

/-- A SERDES reference clock that is missing: its four ports are dark for good, and the fault is logged (R51). -/
def darkPorts (s : State) (lo : Nat) : State :=
  (rangeFrom lo 4).foldl (fun s p => modPort s p (fun x => { x with settled := true })) (chipFault s 9)

/-- The ports that a missing SERDES reference clock feeds are dark (R51, R61). -/
def darkClocks (s : State) : State :=
  let s := if s.pin.serdesA then s else darkPorts s 0
  if s.pin.serdesB then s else darkPorts s 4

/-- The main domains leave reset, and grove time counts from 0 (R60, R257). -/
def releaseMain (s : State) : State :=
  darkClocks (poolScrub { s with boot := { s.boot with dom := .on, clockOk := true }, time := { s.time with now := 0, fraction := 0 } })

def clockCheck (s : State) (dev : Int) (modulated a b : Bool) : State :=
  if s.boot.dom != .reset then s
  else
    let s := { s with pin := { s.pin with serdesA := a, serdesB := b } }
    if decide (100 < dev.natAbs) || modulated then
      darkClocks (serviceReport (chipFault { s with boot := { s.boot with dom := .clockFault } } 5) 5 0)
    else releaseMain s

/-- CLOCK_CHECK (R36, R51, R60) -/
def execClockCheck (deviationPpm : Int) (modulated serdesA serdesB : Bool) (s : State) : Host.Outcome State Fault Refusal :=
  .next (clockCheck s deviationPpm modulated serdesA serdesB)

/-- HBM training ends (R60, R68). -/
def hbmTrained (s : State) (failed : BitVec 8) : State :=
  if !mainOn s || s.boot.hbmOk || s.boot.hbmFailed != 0 then s
  else if failed = 0 then { s with boot := { s.boot with hbmOk := true } }
  else serviceReport (chipFault { s with boot := { s.boot with hbmFailed := failed } } 1) 1 failed.toNat

/-- HBM_TRAINED (R68) -/
def execHbmTrained (failed : BitVec 8) (s : State) : Host.Outcome State Fault Refusal := .next (hbmTrained s failed)

/-- MAIN_SUPPLY_LOSS (R50): MAIN_PG falls with MAIN_EN high. -/
def execMainSupplyLoss (s : State) : Host.Outcome State Fault Refusal :=
  .next (if s.pin.mainEn && s.pin.mainPg then supplyDown (clearMain (chipFault s 4)) else s)

/-- MAIN_EN_REQUEST (R50): the rack manager ends the standby of a supply fault. -/
def execMainEnRequest (s : State) : Host.Outcome State Fault Refusal :=
  .next (if mayRaiseMain s && s.boot.supplyHold then raiseMain { s with boot := { s.boot with supplyHold := false } } else s)

/-! ### Temperature and the brake (R43 to R45) -/

/-- THERMTRIP_N asserted and the main domains isolated until cold reset (R44). -/
def tripNow (s : State) : State :=
  if s.pin.thermtrip then s
  else
    let s := clearMain (chipFault { s with pin := { s.pin with thermtrip := true } } 6)
    { s with boot := { s.boot with dom := .isolated, clockOk := false } }

/-- THERMTRIP (R44) -/
def execThermtrip (s : State) : Host.Outcome State Fault Refusal := .next (if serviceUp s then tripNow s else s)

/-- The sensors as read: ALERT_N follows them (R43), and a reading at the trip point trips (R44). -/
def temperatureWarning (s : State) (tj thbm : Int) : State :=
  if !serviceUp s then s
  else
    let s := { s with pin := { s.pin with tj := tj, thbm := thbm } }
    if decide (115 ≤ tj) || decide (100 ≤ thbm) then tripNow s else s

/-- TEMPERATURE_WARNING (R43) -/
def execTemperatureWarning (tj thbm : Int) (s : State) : Host.Outcome State Fault Refusal := .next (temperatureWarning s tj thbm)

/-- PWR_BRAKE_N (R45, R302): a pulse of at least 1 µs is latched for the governor. -/
def execPwrBrakeN (stillLow : Bool) (s : State) : Host.Outcome State Fault Refusal :=
  .next { s with pin := { s.pin with brakeLow := stillLow }, pwr := { s.pwr with brakeLatch := true } }

/-! ### The steward's start (R58, R59, R310, R314, R321) -/

/-- Steps 1 to 5 of R308 on a slot's header and step 7 on the components chosen. -/
def slotCheck (s : State) (slot : Nat) (which : FwComp → Bool) : Nat :=
  let h := fwHeaderOf s slot
  let c := fwCheckHeader s h false
  if c ≠ 0 then c else if fwDigestsOk s (fwSlotBase slot) h which then 0 else 7

def bootCheck (s : State) (slot : Nat) : Nat := slotCheck s slot (fun c => c.kind == 1)

/-- The order of R310. -/
def bootOrder (s : State) : List Nat :=
  let r := bootRec s
  if r.pending = 0xFF then [r.primary % 2, otherSlot (r.primary % 2)] else [r.pending % 2, r.primary % 2]

/-- STW.FW_STATE between transfers: PENDING while a slot waits, else STAGED when the other slot holds a whole image (Table 16-7). -/
def restingState (s : State) : FwState :=
  if isTrial s then .trial
  else if (bootRec s).pending ≠ 0xFF then .pending
  else if slotWhole s (targetSlot s) then .staged else .idle

/-- A firmware event's DETAIL: slot, a byte, FW_VERSION (Table 16-11). -/
def fwEvent (code slot byte version : Nat) : Ev := evOf code 5 (slot % 2 + byte % 256 * 2 ^ 8 + version % 2 ^ 32 * 2 ^ 32)

/-- The configuration read: the current copy, else the other when it is valid and readable, else defaults with CONFIG_LOSS. A trial converts it (R314). -/
def readConfig (s : State) (slot : Nat) : State :=
  let h := fwHeaderOf s slot
  let s := if (cfgSource s h).isSome then s else chipFault s 10
  let s := { s with boot := { s.boot with cfgRead := true } }
  if isTrial s then cfgConvert { s with boot := { s.boot with cfgWrote := true } } h else s

/-- The firmware of a slot starts: S of R61, and the flash scan begins (R66). -/
def startFirmware (s : State) (slot : Nat) : State :=
  let v := fwVersion (fwHeaderOf s slot)
  let s := recLogAppend (markAttempt s slot) 1 slot 0 v
  let s := { s with boot := { s.boot with phase := .firmware, slot := slot }, lib := { s.lib with scanning := true } }
  let s := if isTrial s then postFirmware s (fwEvent 0x0902 slot 0 v) else s
  let s := readConfig s slot
  { s with stw := { s.stw with fw := restingState s } }

/-- The host link taken down. -/
def dropLink (s : State) : State :=
  let s := linkGone s
  setHost s { s.host with linkUp := false, ldUp := 0 }

/-- Recovery mode: the host port in reset with no link (R59). -/
def enterRecovery (s : State) : State :=
  let s := dropLink (recLogAppend s 7 0 0 0)
  { s with boot := { s.boot with phase := .recovery, slot := 2 } }

/-- The slots tried in order (R310). -/
def tryBoot (s : State) : List Nat → State
  | [] => enterRecovery s
  | slot :: t =>
    if 2 ≤ attempts s slot then tryBoot s t
    else
      let c := bootCheck s slot
      if c = 0 then startFirmware s slot
      else
        let s := recLogAppend s 2 slot c (fwVersion (fwHeaderOf s slot))
        tryBoot { s with stw := { s.stw with lastCheck := c } } t

def stewardStart (s : State) : State :=
  if s.boot.phase != .rom then s
  else if bootSrc s = 3 then serviceReport (chipFault (enterRecovery s) 8) 8 0
  else if bootSrc s = 1 || (bootSrc s = 2 && s.boot.cold) then enterRecovery s
  else tryBoot s (bootOrder s)

/-- STEWARD_START (R58, R310) -/
def execStewardStart (s : State) : Host.Outcome State Fault Refusal := .next (stewardStart s)

/-! ### Ready, the window, health (R62 to R66, R311 to R313) -/

/-- READY (R62): DRS is sent if the host link is up (R64). -/
def becomeReady (s : State) : State :=
  if s.boot.phase != .firmware || !mainOn s || s.boot.ready then s
  else
    let s := { s with boot := { s.boot with ready := true } }
    if s.host.linkUp then emit s .drs else s

/-- READY (R62) -/
def execReady (s : State) : Host.Outcome State Fault Refusal := .next (becomeReady s)

/-- BOOT_TIMEOUT (R65): once per release, the link down, a boot timeout logged, a warm reset. In recovery mode the ROM serves the service port, and no boot is under way (R59; log 72). -/
def bootTimeout (s : State) : State :=
  if s.boot.ready || s.boot.timedOut || !(s.boot.phase == .rom || s.boot.phase == .firmware) then s
  else
    let s := dropLink { s with boot := { s.boot with timedOut := true } }
    askFaultWarm (chipFault s 7)

/-- BOOT_TIMEOUT (R65) -/
def execBootTimeout (s : State) : Host.Outcome State Fault Refusal := .next (bootTimeout s)

/-- What the flash scan finds: the capacity, seven eighths of the NAND in 256 MiB units (R269), and the wear that the flash carries (log 81). -/
def scanEnds (s : State) (cap : Nat) : State :=
  { s with lib := { s.lib with scanning := false, capacity := cap, life := s.lib.flashLife, readOnly := s.lib.flashSpent } }

/-- The flash scan ends. The window opens once the chip is ready with HBM, and stays closed where HBM failed (R66, R68). -/
def windowOpen (s : State) (gib : Nat) : State :=
  if s.boot.phase != .firmware || !mainOn s || !s.lib.scanning || !s.boot.ready || decide (4096 < gib) then s
  else
    let cap := gib * 7 / 2
    if s.boot.hbmOk then
      let s := scanEnds s cap
      let s := { s with lib := { s.lib with isOpen := true }, boot := { s.boot with memActive := true } }
      raiseMsix (postT0 s 0x0701 5 (cap % 2 ^ 24)) 0 3
    else if s.boot.hbmFailed != 0 then scanEnds s cap
    else s

/-- WINDOW_OPEN (R66) -/
def execWindowOpen (nandGib : Nat) (s : State) : Host.Outcome State Fault Refusal := .next (windowOpen s nandGib)

/-- The checks of R311, those that the state shows. -/
def bootChecks (s : State) : Bool :=
  s.boot.ready && slotCheck s s.boot.slot (fun _ => true) == 0 && s.boot.cfgRead && (!isTrial s || s.boot.cfgWrote) &&
    !s.lib.scanning && (s.lib.isOpen || !s.boot.hbmOk)

/-- Floor fuses blown up to the running image's SVN (R312). -/
def blowFloor (s : State) : State :=
  { s with fuse := { s.fuse with svnBlown := max s.fuse.svnBlown (fwSvn (fwHeaderOf s s.boot.slot)) } }

/-- A trial is confirmed. -/
def confirmTrial (s : State) : State :=
  let slot := s.boot.slot
  let v := fwVersion (fwHeaderOf s slot)
  let s := blowFloor (recWrite s slot 0xFF (1 - (bootRec s).cfgCopy % 2) marksClear)
  recLogAppend (postFirmware s (fwEvent 0x0903 slot (s.fuse.svnBlown % 128) v)) 5 slot 0 v

/-- A boot of the primary clears the marks and a pending slot that failed. -/
def healthyPrimary (s : State) : State :=
  let r := bootRec s
  let s' := if r.pending = 0xFF && r.marks.all (· == 0xFF) then s else recWrite s (r.primary % 2) 0xFF (r.cfgCopy % 2) marksClear
  let s' := blowFloor s'
  if r.pending = 0xFF then s'
  else
    let slot := r.pending % 2
    let v := fwVersion (fwHeaderOf s slot)
    recLogAppend (postFirmware s' (fwEvent 0x0904 slot (bootCheck s slot) v)) 6 slot (bootCheck s slot) v

/-- The checks passed: in time, no later than 2,000 ms after release (R311). -/
def bootHealthy (s : State) (kat : Bool) : State :=
  if s.boot.phase != .firmware || s.boot.healthy || s.boot.healthLate || decide (2000000000 < s.time.logNs - s.boot.releaseNs) || !kat || !bootChecks s then s
  else
    let s := if isTrial s then confirmTrial s else healthyPrimary s
    { s with boot := { s.boot with healthy := true }, stw := { s.stw with fw := if s.stw.fw = .receiving then .receiving else restingState s } }

/-- BOOT_HEALTHY (R311, R312) -/
def execBootHealthy (knownAnswers : Bool) (s : State) : Host.Outcome State Fault Refusal := .next (bootHealthy s knownAnswers)

/-- The check that failed, as the recovery log records it: 7 or a header code where the image fails, else 0. Then a warm reset (R313). -/
def bootHealthTimeout (s : State) : State :=
  if s.boot.phase != .firmware || s.boot.healthy || s.boot.healthLate then s
  else
    let slot := s.boot.slot
    let s := { s with boot := { s.boot with healthLate := true } }
    askFaultWarm (recLogAppend s 2 slot (slotCheck s slot (fun _ => true)) (fwVersion (fwHeaderOf s slot)))

/-- BOOT_HEALTH_TIMEOUT (R313) -/
def execBootHealthTimeout (s : State) : Host.Outcome State Fault Refusal := .next (bootHealthTimeout s)

/-! ### Warm reset (R52, R53, R55, R69) -/

/-- The rack manager asks for a warm reset; one already asked for stands. -/
def serviceWarm (s : State) : State :=
  if !serviceUp s || s.boot.warm.isSome then s else askWarm s .rack true

/-- SERVICE_WARM_RESET (R55) -/
def execServiceWarmReset (s : State) : Host.Outcome State Fault Refusal := .next (serviceWarm s)

/-- The recall and flush of R55 are done: no host holds a line and no page is dirty. -/
def flushed (s : State) : Bool :=
  s.lib.dir.isEmpty && s.lib.snoops.isEmpty && !s.lib.pages.any (fun x => x.dirty || x.writing)

def warmMay (s : State) : Bool :=
  match s.boot.warm with
  | some w => w.due && (!w.flush || flushed s)
  | none => false

/-- WARM_RESET's ADMIN_DONE, the last entry of T0's event ring before the reset; where the ring cannot take it, it is never written (R69). -/
def warmDone (s : State) : State :=
  match s.admin with
  | some { d := d, work := .warm } => adminDone s d 0 0
  | _ => s

/-- The main domains enter reset; the heartwood ROM runs again, and the domains leave reset at once where their clock has passed (R58, R60). -/
def warmEnter (s : State) : State :=
  if !warmMay s then s
  else
    let clock := s.boot.clockOk && s.pin.mainPg
    let s := clearMain (warmDone s)
    let s := { s with boot := { s.boot with phase := .rom, kind := 1, slot := 0, releaseNs := s.time.logNs, timedOut := false, healthLate := false, cold := false } }
    let s := { s with stw := { s.stw with fw := .idle, pathService := false, nextOffset := 0, lastCheck := 0, header := [], pldm := .idle } }
    let s := if clock then releaseMain s else s
    writeAnchor (lockDebug s)

/-- WARM_RESET_ENTER (R69) -/
def execWarmResetEnter (s : State) : Host.Outcome State Fault Refusal := .next (warmEnter s)

/-- WARM_RESET by the admin ring: its ADMIN_DONE is written before the reset (R69). -/
def warmDesc (s : State) (d : Desc) : State :=
  admin s d 0x71 (fun s => askWarm (adminWait s d .warm) .operator true)

/-- WARM_RESET (R69) -/
def execWarmReset (d : Desc) (s : State) : Host.Outcome State Fault Refusal := .next (warmDesc s d)

end Sys2Proof.Machine
end

