-- ==== Sys2Proof/Machine/Host.lean ====
section
/-! DEFINITION. The host port: link, configuration, resets of functions, doorbells, descriptor fetches and read tags
(03, 04: R41, R52 to R54, R57, R63, R64, R70 to R72, R75 to R82, R88 to R90). -/

namespace Sys2Proof.Machine

/-! ### Resets of functions (R52 to R54, R57, R72) -/

/-- A function's registers and rings reset; the tenant's counts of the intake stay with its record. -/
def fnCleared (f : FnState) (resetting : Bool) : FnState :=
  { FnState.reset with tally := f.tally, late := f.late, resetting := resetting }

/-- The admin descriptor in progress is lost with its function (R90): its work is given up, and no completion is written (log 42). -/
def dropAdmin (s : State) : State :=
  let t := { s with admin := none }
  match s.admin with
  | some { d := _, work := .publish _ _ _ _ } => libProgress (unlock t)
  | some { d := _, work := .slice } => { t with link := { t.link with probes := [] } }
  | _ => t

/-- Reads for a function's rings and for its tenant's payloads given up: no DMA is issued for it (R54). -/
def dropFnReads (s : State) (n : Nat) : State :=
  dropReads s (fun o => match o with
    | .ring fn _ => fn == n
    | .payload st _ => (streamOf s st).tenant == n)

/-- One function reset, with its tenant's streams closed at the next boundary (R54). The read latches of its own 64-bit registers are disarmed with them, the PF's all of them: the model's choice, as R2 and Table 3-2 do not name the latches (log 85). -/
def resetFunction (resetting : Bool) (s : State) (n : Nat) : State :=
  let s := dropFnReads s n
  let s := modFn s n (fun f => fnCleared f resetting)
  let s := setHost s { s.host with latches := s.host.latches.filter (fun l => l.fn != n) }
  let s := resetStreams s n
  if n = 0 then dropAdmin s else s

/-- The functions that exist, or still hold state. -/
def allFns (s : State) : List Nat := (List.range 256).filter (fun n => fnExists s n || (tabFind s.host.fns n).isSome)

/-- Function-level reset of the PF: all functions, VF Enable cleared (Table 3-2). -/
def pfReset (s : State) : State :=
  if !s.host.linkUp || !s.boot.ready then s
  else
    let s := (allFns s).foldl (resetFunction true) s
    { s with boot := { s.boot with kind := 2 }, host := { s.host with vfNum := 0, cto := 0, cacheEn := false } }

/-- FUNCTION_LEVEL_RESET (R54) -/
def execFunctionLevelReset (s : State) : Host.Outcome State Fault Refusal := .next (pfReset s)

def vfReset (s : State) (w : VfReset) : State :=
  if !s.host.linkUp || !s.boot.ready then s
  else match w with
    | .one n => if decide (1 ≤ n) && fnExists s n then resetFunction true s n else s
    | .every =>
      let s' := (rangeFrom 1 s.host.vfNum).foldl (resetFunction true) s
      setHost s' { s'.host with vfNum := 0 }

/-- PER_VF_RESET (R54) -/
def execPerVfReset (which : VfReset) (s : State) : Host.Outcome State Fault Refusal := .next (vfReset s which)

/-- A reset of functions completes: FRS (R57). -/
def flrDone (s : State) (scope : FlrScope) : State :=
  let done := fun (s : State) (n : Nat) => modFn s n (fun f => { f with resetting := false })
  match scope with
  | .pf => if (fnOf s 0).resetting then emit ((allFns s).foldl done s) (.frs .pf) else s
  | .vf n => if decide (1 ≤ n) && (fnOf s n).resetting && !(fnOf s 0).resetting then emit (done s n) (.frs (.vf n)) else s

/-- FLR_COMPLETE (R57) -/
def execFlrComplete (scope : FlrScope) (s : State) : Host.Outcome State Fault Refusal := .next (flrDone s scope)

/-- A host that the chip serves dies (R278). -/
def hostLost (cause : Nat) (s : State) (ld : Nat) : State := if hostReaches s ld then hostDies s ld cause else s

/-- The configuration space of an LD's function 0 reset, LD1 to LD15 (R72). -/
def ldConfigReset (s : State) (ld : Nat) : State := setFn s (256 + ld) FnState.reset

/-- Link-triggered reset: the link is down, every function and the configuration space reset, so that nothing more is sent for them, and every host dies (R54, Table 3-2). -/
def linkReset (s : State) (cause : LinkCause) : State :=
  if !s.host.linkUp && cause != .perst then s
  else
    let s := if cause = .perst then { s with pin := { s.pin with perstN := false, refclkOk := false } } else s
    let hosts := (List.range 16).filter (hostReaches s)
    let s := linkGone s
    let s := (allFns s).foldl (resetFunction false) (setHost s { s.host with linkUp := false })
    let s := (rangeFrom 1 15).foldl ldConfigReset s
    let s := hosts.foldl (fun s ld => hostDies s ld 2) s
    { s with
        boot := { s.boot with kind := 3 }
        host := { s.host with ldUp := 0, decoders := 0, dead := 0, vfNum := 0, cto := 0, cacheEn := false, latches := [] } }

/-- LINK_TRIGGERED_RESET (R52, R54). The chip must be out of cold reset. -/
def execLinkTriggeredReset (cause : LinkCause) (s : State) : Host.Outcome State Fault Refusal :=
  .next (if serviceUp s then linkReset s cause else s)

/-- A hot reset or link-down of LD1 to LD15: its decoder reset, its host dead; LD0's is a link-triggered reset (R72). -/
def ldReset (s : State) (ld : Nat) : State :=
  if !s.host.linkUp || 16 ≤ ld then s
  else if ld = 0 then linkReset s .hotReset
  else
    let s := ldConfigReset (hostLost 1 s ld) ld
    setHost s { s.host with decoders := s.host.decoders &&& ~~~(ldBit ld), dead := s.host.dead &&& ~~~(ldBit ld) }

/-- LD_RESET (R72) -/
def execLdReset (ld : Nat) (s : State) : Host.Outcome State Fault Refusal := .next (ldReset s ld)

/-! ### The link (R41, R64) -/

/-- PERST_N_RELEASE (R41) -/
def execPerstNRelease (refclkStable : Bool) (s : State) : Host.Outcome State Fault Refusal :=
  .next { s with pin := { s.pin with perstN := true, refclkOk := s.pin.refclkOk || refclkStable } }

/-- The host link comes up: PERST_N released, its clock stable, the main domains on, and no recovery or test mode (R39, R59). DRS follows once ready (R64). -/
def hostLinkUp (s : State) : State :=
  if s.host.linkUp || !s.pin.perstN || !s.pin.refclkOk || !mainOn s || s.boot.phase == .recovery || testMode s then s
  else
    let s := emit (setHost s { s.host with linkUp := true, ldUp := 0xFFFF, dead := 0 }) (.link true)
    if s.boot.ready then emit s .drs else s

/-- HOST_LINK_UP (R64) -/
def execHostLinkUp (s : State) : Host.Outcome State Fault Refusal := .next (hostLinkUp s)

/-! ### Configuration (R63, R70, R71, R88; Tables 4-14, 4-15) -/

/-- How a configuration request completes (Table 4-15). -/
def configAnswer (s : State) (ld fn : Nat) : Completion :=
  if !s.boot.ready || (ld = 0 && fn < 256 && (fnOf s 0).resetting) then .crs
  else if 16 ≤ ld || (ld ≠ 0 && fn ≠ 0) || !fnExists s fn then .unsupported
  else if ld = 0 && (fnOf s fn).resetting then .crs
  else .success

/-- The function that a configuration request names, as the model numbers it (log 18). -/
def configFn (ld fn : Nat) : Nat := if ld = 0 then fn else 256 + ld

/-- Table 4-1: whether the SK6 supports a feature; the enable bit of one that it does not is hardwired to 0 (R70). -/
def featureSupported (f : HostFeature) : Bool :=
  match f with
  | .tag10Bit => true
  | .ats => true
  | .msix => true
  | .msixFunctionMask => true
  | .aer => true
  | .ecrcGeneration => true
  | .ecrcCheck => true
  | .relaxedOrdering => true
  | .doe => true
  | .tag14Bit => false
  | .pri => false
  | .pasid => false
  | .msi => false
  | .intx => false
  | .idOrdering => false
  | .tph => false
  | .atomicOps => false
  | .aspm => false
  | .ltr => false
  | .ptm => false
  | .ide => false
  | .resizableBar => false
  | .uio => false

/-- Pending vectors that nothing masks any more sent (R86). -/
def sendPending (s : State) (fn : Nat) : State :=
  let f := fnOf s fn
  (f.pendingVecs.filter (msixOpen f)).foldl (fun s v => sendMsix s fn v)
    (modFn s fn (fun f => { f with pendingVecs := f.pendingVecs.filter (fun v => !msixOpen f v) }))

/-- A vector masked, or unmasked with its pending message sent (R86). -/
def setMask (s : State) (fn v : Nat) (masked : Bool) : State :=
  if vectorCount fn ≤ v then s
  else if masked then modFn s fn (fun f => { f with unmasked := f.unmasked.filter (· != v) })
  else sendPending (modFn s fn (fun f => { f with unmasked := insertNat v f.unmasked })) fn

/-- An enable bit written: that of a supported feature takes the value, any other stays 0 (R70). -/
def setFeature (s : State) (n : Nat) (f : HostFeature) (on : Bool) : State :=
  if !featureSupported f then s
  else
    let s := modFn s n (fun x => { x with enables := x.enables.filter (· != f) ++ (if on then [f] else []) })
    if f = .msix || f = .msixFunctionMask then sendPending s n else s

/-- The size of BAR i of a function, 0 where it has none (Table 4-2). -/
def barSize (n i : Nat) : Nat :=
  if n = 0 then (if i = 0 then 2 ^ 26 else if i = 2 || i = 4 then 2 ^ 16 else 0)
  else if n < 256 then (if i = 0 then 2 ^ 16 else if i = 2 then 2 ^ 12 else 0)
  else if i = 0 then 2 ^ 16 else 0

/-- A BAR written: the address bits above its size. -/
def setBar (s : State) (n i address : Nat) : State :=
  if barSize n i = 0 then s
  else modFn s n (fun x => { x with bars := tabSet i (address % 2 ^ 64 / barSize n i * barSize n i) x.bars })

/-- What a configuration read answers (R66, R70, R88): the completion timeout ranges are A alone, encoded 0b0001, its disable is not supported, and Memory_Active_Timeout is 0b000. -/
def configValue (s : State) (ld fn : Nat) (field : ConfigField) : Nat :=
  let n := configFn ld fn
  match field with
  | .enable f => b2n ((fnOf s n).enables.contains f)
  | .bar i => tabGet 0 (fnOf s n).bars i
  | .vfEnable => if n = 0 then s.host.vfNum else 0
  | .completionTimeout => if n = 0 then s.host.cto else 0
  | .timeoutRanges => if n = 0 then 1 else 0
  | .timeoutDisable => 0
  | .cacheEnable => b2n (decide (n = 0) && s.host.cacheEn)
  | .decoderCommit => b2n (decide (fn = 0) && s.host.decoders.toNat.testBit ld)
  | .memoryActive => b2n (decide (fn = 0) && s.boot.memActive)
  | .memoryActiveTimeout => 0

/-- CXL.cache enabled or disabled on LD0: a disable gives up every doorbell line that is held (R77). -/
def setCache (s : State) (on : Bool) : State :=
  let s := setHost s { s.host with cacheEn := on }
  if on then s else (allFns s).foldl (fun s n => modFn s n (fun f => { f with coherent := false })) s

/-- What a configuration request changes. VF Enable takes a new count only from 0; clearing it resets every VF. -/
def configEffect (s : State) (ld fn : Nat) (op : ConfigOp) : State :=
  match op with
  | .read _ => s
  | .bar i a => setBar s (configFn ld fn) i a
  | .featureEnable f on => setFeature s (configFn ld fn) f on
  | .vfEnable n =>
    if ld ≠ 0 || fn ≠ 0 then s
    else if n = 0 then vfReset s .every
    else if s.host.vfNum = 0 && n ≤ 255 then setHost s { s.host with vfNum := n } else s
  | .completionTimeout v => if ld = 0 && fn = 0 then setHost s { s.host with cto := v % 16 } else s
  | .cacheEnable on => if ld = 0 && fn = 0 then setCache s on else s
  | .decoderCommit on =>
    if fn ≠ 0 then s
    else setHost s { s.host with decoders := if on then s.host.decoders ||| ldBit ld else s.host.decoders &&& ~~~(ldBit ld) }
  | .vectorMask v masked => if ld = 0 then setMask s fn v masked else s

def configRequest (s : State) (ld fn : Nat) (op : ConfigOp) : State :=
  if !s.host.linkUp then s
  else
    let c := configAnswer s ld fn
    let v := match op with
      | .read f => configValue s ld fn f
      | _ => 0
    if c = .success then emit (configEffect s ld fn op) (.config ld fn c v) else emit s (.config ld fn c 0)

/-- CONFIG_REQUEST (R63) -/
def execConfigRequest (ld fn : Nat) (op : ConfigOp) (s : State) : Host.Outcome State Fault Refusal := .next (configRequest s ld fn op)

/-! ### Doorbells (R76 to R80, R85) -/

/-- The ring takes what the host produces (R76). -/
def hostFills (r : Nat) : Bool := r == 0 || r == 3

/-- One count observed for an enabled ring that is not stopped: a stop, or the new count (R79, R80). -/
def observe (s : State) (fn r count : Nat) : State :=
  let x := ringOf s fn r
  if !ringLive x then s
  else if count < ringCount x then stopRing s fn r 1
  else if (if hostFills r then x.devIdx + ringSize x else x.devIdx) < count then stopRing s fn r 2
  else
    let marks := if r = 0 && ringCount x < count then x.marks ++ [(count, s.tick.intake)] else x.marks
    setRing s fn r { x with seen := some count, marks := marks }

/-- The counts acted on: hand-backs first, with EVENTS_LOST, a due ADMIN_DONE and RESULTS_LOST before anything new; then the rings that the host fills. -/
def takeCounts (s : State) (fn w0 w1 w2 w3 : Nat) : State :=
  let s := observe s fn 2 w2
  let s := lostFirst s fn
  let s := if fn = 0 then adminTry s else s
  let s := resultsLost (observe s fn 1 w1) fn
  let s := startFetch (observe s fn 0 w0) fn 0
  if fn = 0 then startFetch (observe s fn 3 w3) fn 3 else s

/-- A function whose doorbell line HOSTIO reads. -/
def doorbellLive (s : State) (fn : Nat) : Bool :=
  mainOn s && s.host.linkUp && fnExists s fn && !(fnOf s fn).resetting && anyRing (fnOf s fn)

/-- A read of the doorbell line failed: it is retried, and logged once (NOTE kind 4). -/
def doorbellFails (s : State) (fn : Nat) : State :=
  let first := !(fnOf s fn).readFailed
  let s := modFn s fn (fun f => { f with coherent := false, readFailed := true })
  if first then note s 4 0 else s

/-- The counts of a doorbell line that was read. -/
def doorbellCounts (s : State) (fn w0 w1 w2 w3 : Nat) : State :=
  takeCounts (modFn s fn (fun f => { f with coherent := !effPoll s f, readFailed := false })) fn w0 w1 w2 w3

/-- A read of the line over CXL.cache ends (R77); it uses no tag, and one that does not come back has failed. -/
def cacheRead (s : State) (fn : Nat) (r : DoorbellRead) : State :=
  match r with
  | .failed => doorbellFails s fn
  | .timeout => doorbellFails s fn
  | .counts w0 w1 w2 w3 => doorbellCounts s fn w0 w1 w2 w3

/-- A doorbell line's address (Table 4-3). -/
def doorbellAddress (f : FnState) : Nat := f.dbHi.toNat * 2 ^ 32 + f.dbLo.toNat

/-- A read of the line over PCIe (R77): it takes a tag, waits where none is free, and a timeout is reported in AER and quarantines the tag (R89). -/
def pollRead (s : State) (fn : Nat) (r : DoorbellRead) : State :=
  match freeReadTag s.host with
  | none => noteExhausted s
  | some t =>
    let s := emit s (.dmaRead t (doorbellAddress (fnOf s fn)) 64 false (readTimeoutNs s))
    match r with
    | .failed => doorbellFails s fn
    | .timeout => doorbellFails (emit (setHost s { s.host with quarantine := tabSet t false s.host.quarantine }) (.aer t false)) fn
    | .counts w0 w1 w2 w3 => doorbellCounts s fn w0 w1 w2 w3

/-- A read of the line in the function's mode: polling, or coherent (R77). -/
def doorbellRead (s : State) (fn : Nat) (r : DoorbellRead) : State :=
  if effPoll s (fnOf s fn) then pollRead s fn r else cacheRead s fn r

/-- DOORBELL_INVALIDATION (R77): coherent mode, the line held. -/
def execDoorbellInvalidation (fn : Nat) (r : DoorbellRead) (s : State) : Host.Outcome State Fault Refusal :=
  .next (if doorbellLive s fn && !effPoll s (fnOf s fn) && (fnOf s fn).coherent then cacheRead s fn r else s)

/-- DOORBELL_POLL (R77): polling mode; in coherent mode the read at an enable (R75) and the retries of a failed one. -/
def execDoorbellPoll (fn : Nat) (r : DoorbellRead) (s : State) : Host.Outcome State Fault Refusal :=
  .next (if doorbellLive s fn && (effPoll s (fnOf s fn) || !(fnOf s fn).coherent) then doorbellRead s fn r else s)

/-! ### Descriptors read (R75, R80, R81) -/

/-- R81 on a ring 0 descriptor, but for stream ownership: 0, BAD_DESC or BAD_OPCODE (Tables 4-6, 4-7). EOU set on another opcode than FRAME is BAD_DESC: Table 4-6 gives it to FRAME only and does not say what it is elsewhere (log 40). -/
def frameCheck (d : Desc) : Nat :=
  let op := dOpcode d
  let len := dLen d
  if op = 0 || 6 < op then 2
  else if fieldOf d 15 8 != 0 || fieldOf d 63 49 != 0 || fieldOf d 127 80 != 0 || fieldOf d 383 256 != 0 || dArg1 d != 0 then 1
  else if op = 1 then
    (if dArg0 d = 0 && len % 64 = 0 && 64 ≤ len && len ≤ 16384 && dAddr d % 64 = 0 then 0 else 1)
  else if dEou d || dSeq d != 0 || len != 0 || dAddr d != 0 then 1
  else if op = 2 then (if dArg0 d < 4 then 0 else 1)
  else if op = 3 then (if dArg0 d < 2 ^ 32 then 0 else 1)
  else if dArg0 d = 0 then 0 else 1

/-- The intake of ring 0 entry i: that of the count which first covered it (R78). -/
def entryIntake (s : State) (x : Ring) (i : Nat) : Nat :=
  match x.marks.find? (fun m => decide (i < m.1)) with
  | some m => m.2
  | none => s.tick.intake

/-- A ring ready for its next entry; one idle after its disable has RING_DEVIDX 0, and one enabled again begins now (R75). -/
def fetchEnds (s : State) (fn r : Nat) : State :=
  let x := ringOf s fn r
  if !x.stale then setRing s fn r { x with fetching := false }
  else if x.enable then modFn (setRing s fn r (ringFresh x)) fn (fun f => { f with coherent := false })
  else setRing s fn r { x with fetching := false, stale := false, devIdx := 0 }

/-- A descriptor read: validated, and kept for the command that carries it out, or completed with its status. An attempt to unlock debug draws a challenge also where its fields are refused (R338). -/
def takeDescriptor (s : State) (fn r : Nat) (d : Desc) : State :=
  let x := ringOf s fn r
  let k := entryIntake s x x.devIdx
  let s := setRing s fn r { x with devIdx := x.devIdx + 1, marks := x.marks.filter (fun m => decide (x.devIdx + 1 < m.1)) }
  if r = 3 then
    let st := adminCheck d
    let s := if st ≠ 0 && aOpcode d = 0x70 && bitAt (aArg0 d) 0 then newChallenge s else s
    if st ≠ 0 then adminDone s d st 0 else modFn s 0 (fun f => { f with adminFetched := f.adminFetched ++ [d] })
  else
    let st := frameCheck d
    if st ≠ 0 then startFetch (refuse s fn d (intakeNow s k) st) fn 0 else modFn s fn (fun f => { f with fetched := f.fetched ++ [(k, d)] })

/-- A read of ring memory ends without data: the ring stops (R80). -/
def fetchFails (s : State) (fn r : Nat) : State :=
  let stale := (ringOf s fn r).stale
  let s := fetchEnds s fn r
  if stale then startFetch s fn r else stopRing s fn r 3

/-- A tag whose read timed out: reported in AER and quarantined (R89). -/
def quarantineTag (s : State) (t : Nat) : State :=
  emit (nextRead (setHost s { s.host with reads := tabErase t s.host.reads, quarantine := tabSet t false s.host.quarantine })) (.aer t false)

/-- A write of ring memory failed: the ring stops (R80). It comes in by the row that reports a failed read of ring memory (log 86). -/
def ringWriteFails (s : State) (fn r : Nat) (x : DmaRead) : State :=
  match x with
  | .ok _ => s
  | .error => if ringLive (ringOf s fn r) && !(fnOf s fn).resetting then stopRing s fn r 3 else s
  | .timeout => s

/-- The read of a descriptor ends. One begun under an earlier enable is dropped (R75). -/
def fetchComplete (s : State) (fn r : Nat) (x : DmaRead) : State :=
  match s.host.reads.find? (fun e => e.2 == .ring fn r) with
  | none => s
  | some (t, _) =>
    match x with
    | .timeout => fetchFails (quarantineTag s t) fn r
    | .error => fetchFails (endRead s (.ring fn r)) fn r
    | .ok bytes =>
      let stale := (ringOf s fn r).stale
      let s := fetchEnds (endRead s (.ring fn r)) fn r
      if stale then startFetch s fn r
      else if ringLive (ringOf s fn r) then takeDescriptor s fn r (BitVec.ofNat 512 (leNat (padTo 64 bytes)))
      else s

/-- DESCRIPTOR_FETCH_COMPLETE (R81) -/
def execDescriptorFetchComplete (fn ring : Nat) (r : DmaRead) (s : State) : Host.Outcome State Fault Refusal :=
  .next (if hostFills ring then fetchComplete s fn ring r else ringWriteFails s fn ring r)

/-! ### Timeouts and tags (R88, R89) -/

def readTimesOut (s : State) (t : Nat) : State :=
  match tabFind s.host.reads t with
  | none => s
  | some (.ring fn r) => fetchFails (quarantineTag s t) fn r
  | some (.payload i seq) => payloadFails (quarantineTag s t) i seq 5

/-- COMPLETION_TIMEOUT (R89) -/
def execCompletionTimeout (tag : Nat) (s : State) : Host.Outcome State Fault Refusal := .next (readTimesOut s tag)

/-- TAG_QUARANTINE_END (R89) -/
def execTagQuarantineEnd (tag : Nat) (s : State) : Host.Outcome State Fault Refusal :=
  .next (nextRead (setHost s { s.host with quarantine := tabErase tag s.host.quarantine }))

/-- A completion for a tag that is quarantined or not issued is discarded: reported in AER, logged once per quarantine (NOTE kind 5). -/
def lateCompletion (s : State) (t : Nat) : State :=
  if !s.host.linkUp || (tabFind s.host.reads t).isSome then s
  else
    let s := emit s (.aer t true)
    match tabFind s.host.quarantine t with
    | some false => note (setHost s { s.host with quarantine := tabSet t true s.host.quarantine }) 5 0
    | _ => s

/-- UNEXPECTED_COMPLETION (R89) -/
def execUnexpectedCompletion (tag : Nat) (s : State) : Host.Outcome State Fault Refusal := .next (lateCompletion s tag)

end Sys2Proof.Machine
end

