-- ==== Sys2Proof/Machine/Regs.lean ====
section
/-! DEFINITION. Register access over BAR0: latches, narrow accesses, writes and their locks, rings, debug (R2 to R6, R47, R74,
R75, R107, R186, R187, R333, R341 to R348). -/

namespace Sys2Proof.Machine

/-- Requests to a window are served: a BAR with the link up, the chip ready, the function present and not in reset (R63, Table 4-15); JTAG while DVDBG is open (R47); the service port while the steward runs. -/
def barServed (s : State) (w : Nat) : Bool :=
  if w = jtagFn then s.dbg.dvdbg && s.err.unlocked
  else if w = serviceFn then serviceUp s
  else
    let fn := windowFn w
    s.host.linkUp && s.boot.ready && (ldFn fn || (fnExists s fn && !(fnOf s 0).resetting && !(fnOf s fn).resetting))

/-- A read answered with a 32-bit value. -/
def mmioValue (s : State) (fn off v : Nat) : State := emit s (.mmio fn off .success (v % 2 ^ 32))

/-- An access: nothing where no path reaches the chip, Unsupported Request where a BAR is not served, else the body. -/
def mmio (s : State) (fn off : Nat) (body : State → State) : State :=
  if barServed s fn then body s
  else if !s.host.linkUp || fn = jtagFn || fn = serviceFn then s
  else emit s (.mmio fn off .unsupported 0)

/-! ### Reads (R2, R3, R333, R345) -/

/-- Lost counts that clear when they are read (R333). -/
def readClears (s : State) (fn off : Nat) : State :=
  if fn = 0 && off = 0x50108 then { s with knot := { s.knot with dumpsLost := 0 } }
  else if fn = 0 && off = 0xC0014 then { s with err := { s.err with pmLost := 0 } }
  else s

/-- A read of DBG.POOL_DATA's high word advances WORD (Table 18-4). -/
def advanceWord (s : State) (fn off : Nat) : State :=
  if windowFn fn = 0 && off = 0xF0014 && s.err.unlocked then { s with dbg := { s.dbg with poolAddr := (s.dbg.poolAddr + 1) % 2 ^ 24 } } else s

/-- The 64-bit register whose low word is at an offset of a window. -/
def wideAt (s : State) (w off : Nat) : Option Nat :=
  if w = jtagFn then (if 0xF0000 ≤ off then wide s 0 off else none)
  else if w = serviceFn || w = componentBar || isMsixBar w then none
  else wide s w off

/-- The latch of a 64-bit register by its low offset. A register has one latch, whichever path reads it. -/
def isLatch (w off : Nat) (l : Latch) : Bool := l.fn == windowFn w && l.offset == off

/-- The word a latch gives: DBG reads zero while debug is locked (R345). -/
def latchWord (s : State) (w off : Nat) (l : Latch) : Nat :=
  if windowFn w = 0 && 0xF0000 ≤ off && !s.err.unlocked then 0 else l.high.toNat

/-- A narrow or misaligned access: no effect, all ones, one REG_ACCESS (R3). -/
def narrow (s : State) (fn off width : Nat) (write : Bool) : State :=
  mmio s fn off (fun s =>
    let s := regAccess s (windowFn fn) off write
    if write then s else emit s (.mmio fn off .success (2 ^ width - 1)))

/-- An aligned 32-bit read of the low word of a 64-bit register: the high word is latched. -/
def readLow (s : State) (fn off x : Nat) : State :=
  mmioValue (setHost s { s.host with latches := s.host.latches.filter (fun l => !isLatch fn off l) ++
    [{ fn := windowFn fn, offset := off, high := BitVec.ofNat 32 (x / 2 ^ 32) }] }) fn off (readReg s fn off)

/-- An aligned 32-bit read that is no low word: the latched value once where a latch is armed, else the live one. -/
def readOther (s : State) (fn off : Nat) : State :=
  match s.host.latches.find? (fun l => isLatch fn (off - 4) l && decide (4 ≤ off)) with
  | some l =>
    mmioValue (setHost s { s.host with latches := s.host.latches.filter (fun l => !isLatch fn (off - 4) l) }) fn off (latchWord s fn off l)
  | none => mmioValue s fn off (readReg s fn off)

/-- A 32-bit read of an offset (R2): which of the two rows it is follows from the offset. -/
def read32 (s : State) (fn off : Nat) : State :=
  if off % 4 ≠ 0 then narrow s fn off 32 false
  else mmio s fn off (fun s =>
    readClears (advanceWord (match wideAt s fn off with
      | some x => readLow s fn off x
      | none => readOther s fn off) fn off) fn off)

/-- LOW_WORD_READ (R2) -/
def execLowWordRead (fn offset : Nat) (s : State) : Host.Outcome State Fault Refusal := .next (read32 s fn offset)

/-- HIGH_WORD_READ (R2) -/
def execHighWordRead (fn offset : Nat) (s : State) : Host.Outcome State Fault Refusal := .next (read32 s fn offset)

/-- DBG_POOL_DATA_READ (R345) -/
def execDbgPoolDataRead (s : State) : Host.Outcome State Fault Refusal := .next (read32 s 0 0xF0014)

/-- A 64-bit aligned read: both words in one transaction, the latch as it is (R2). -/
def read64 (s : State) (fn off : Nat) : State :=
  mmio s fn off (fun s =>
    let s' := emit s (.mmio fn off .success (readReg s fn off + readReg s fn (off + 4) * 2 ^ 32))
    readClears (readClears (advanceWord s' fn (off + 4)) fn off) fn (off + 4))

/-- DVDBG (R47): opens the DBG block over JTAG once debug is unlocked, else BYPASS. -/
def execDvdbg (s : State) : Host.Outcome State Fault Refusal :=
  .next (emit { s with dbg := { s.dbg with dvdbg := s.err.unlocked, ir := if s.err.unlocked then .dvdbg else .bypass } } (.jtag s.err.unlocked))

/-! ### Rings (R74, R75) -/

/-- What an enable does once the ring is idle: RING_DEVIDX is 0, STOPPED clear, the counts observed before forgotten, and the doorbell line is to be read (R75). -/
def ringStart (s : State) (fn r : Nat) : State :=
  modFn (setRing s fn r (ringFresh (ringOf s fn r))) fn (fun f => { f with coherent := false })

/-- A ring enabled; for the event ring, what is held is written (R75, R80, R82, R323, R325). While a fetch of an earlier enable is in flight the ring waits for it. -/
def ringOn (s : State) (fn r log2 : Nat) : State :=
  let x := ringOf s fn r
  let s := setRing s fn r { x with log2 := log2, enable := true }
  if x.fetching then s
  else
    let s := ringStart s fn r
    if r ≠ 2 then s
    else
      let s := flushStops s fn
      if fn = 0 then flushFirmware (flushChipFaults (adminTry s)) else s

/-- A ring disabled: what a fetch in flight returns is dropped, and RING_DEVIDX is 0 once the ring is idle. STOPPED stays until the next enable (R75). -/
def ringOff (s : State) (fn r : Nat) : State :=
  let x := ringOf s fn r
  let s := setRing s fn r { x with enable := false, seen := none, marks := [], stale := x.fetching, devIdx := if x.fetching then x.devIdx else 0 }
  if anyRing (fnOf s fn) then s else modFn s fn (fun f => { f with coherent := false })

/-- DB_ADDR holds 0. -/
def noDoorbell (f : FnState) : Bool := f.dbLo == 0 && f.dbHi == 0

/-- A write of RING_CTRL (R74, R347). -/
def writeCtrl (s : State) (fn r off log2 : Nat) (on : Bool) : State :=
  let x := ringOf s fn r
  let valid := decide (6 ≤ log2) && decide (log2 ≤ 16)
  if x.enable then
    let s := if log2 ≠ x.log2 then regAccess s fn off true else s
    if on then s else ringOff s fn r
  else
    let s := if valid then setRing s fn r { x with log2 := log2 } else s
    if !valid then regValue s fn off
    else if !on then s
    else if noDoorbell (fnOf s fn) then regValue s fn off
    else ringOn s fn r log2

/-- The offset of a function's register set in its BAR0. -/
def fnBase (fn : Nat) : Nat := if fn = 0 then 0x10000 else 0

def ctrlOffset (fn r : Nat) : Nat := fnBase fn + 0x108 + 0x20 * r

def ringCtrlWrite (s : State) (fn r log2 : Nat) (on : Bool) : State :=
  let off := ctrlOffset fn r
  mmio s fn off (fun s => if r < ringCount? fn then writeCtrl s fn r off (log2 % 32) on else regAccess s fn off true)

/-- RING_ENABLE (R75) -/
def execRingEnable (fn ring log2 : Nat) (s : State) : Host.Outcome State Fault Refusal := .next (ringCtrlWrite s fn ring log2 true)

/-- RING_DISABLE (R75) -/
def execRingDisable (fn ring log2 : Nat) (s : State) : Host.Outcome State Fault Refusal := .next (ringCtrlWrite s fn ring log2 false)

/-! ### Writes of a function's registers -/

/-- A write of a field that is locked: nothing when it carries the value held, else one REG_ACCESS (R347). -/
def lockedWrite (s : State) (fn off : Nat) (same : Bool) : State := if same then s else regAccess s fn off true

def writeDbMode (s : State) (fn off v : Nat) : State :=
  let f := fnOf s fn
  let us := bitsOf v 15 4
  let ok := decide (1 ≤ us) && decide (us ≤ 1000)
  if anyRing f then lockedWrite s fn off (us == f.pollUs && bitAt v 0 == f.poll)
  else
    let s := modFn s fn (fun f => { f with poll := bitAt v 0, pollUs := if ok then us else f.pollUs, coherent := false })
    if ok then s else regValue s fn off

def writeFnReg (s : State) (fn off v : Nat) : State :=
  let o := off - fnBase fn
  let f := fnOf s fn
  let lo := BitVec.ofNat 32 (v / 64 * 64)
  let word := BitVec.ofNat 32 v
  let page := BitVec.ofNat 32 (v / 4096 * 4096)
  if o = 8 then (if anyRing f then lockedWrite s fn off (lo == f.dbLo) else modFn s fn (fun f => { f with dbLo := lo }))
  else if o = 12 then (if anyRing f then lockedWrite s fn off (word == f.dbHi) else modFn s fn (fun f => { f with dbHi := word }))
  else if o = 16 then writeDbMode s fn off v
  else if o < 0x100 then s
  else
    let r := (o - 0x100) / 0x20
    let x := ringIn f r
    if o % 0x20 = 0 then (if x.enable then lockedWrite s fn off (page == x.baseLo) else setRing s fn r { x with baseLo := page })
    else if o % 0x20 = 4 then (if x.enable then lockedWrite s fn off (word == x.baseHi) else setRing s fn r { x with baseHi := word })
    else if o % 0x20 = 8 then writeCtrl s fn r off (bitsOf v 20 16) (bitAt v 0)
    else s

/-! ### Writes of the PF's other registers -/

/-- TICK.PERIOD (R107): the tick index follows from the new period. -/
def writePeriod (s : State) (off q : Nat) : State :=
  if s.core.standby.isSome || s.core.active.isSome then lockedWrite s 0 off (q == s.tick.quarters)
  else if 4 ≤ q && q ≤ 160 then
    let s := { s with tick := { s.tick with quarters := q } }
    if timeRuns s then restartTicks s false else s
  else regValue s 0 off

/-- KNOT.MODE.HOLD (R186): accepted values take effect at the next boundary. -/
def writeHold (s : State) (off : Nat) (on : Bool) : State :=
  if on && (!s.err.unlocked || otherTenantEnabled s) then lockedWrite s 0 off (holdReads s)
  else { s with knot := { s.knot with holdReq := some on } }

/-- HOLD (R186) -/
def execHold (on : Bool) (s : State) : Host.Outcome State Fault Refusal := .next (mmio s 0 0x50100 (fun s => writeHold s 0x50100 on))

/-- A knot written by hand (R187), as a host signal under R177. -/
def knotByHand (s : State) (k v : Nat) (add : Bool) : State :=
  if !s.knot.hold || !s.err.unlocked then regAccess s 0 0x50104 true
  else if 48 ≤ k then regValue s 0 0x50104
  else
    let n := (if add then knotOf s k else 0) + v % 65536
    if k < 32 then wake (setKnot s k (n % 65536)) k
    else if knotLimit s k = 0 || knotLimit s k < n then regValue s 0 0x50104
    else wake (setKnot s k n) k

/-- KNOT_DBG_SET (R187) -/
def execKnotDbgSet (knot value : Nat) (s : State) : Host.Outcome State Fault Refusal :=
  .next (mmio s 0 0x50104 (fun s => knotByHand s (knot % 64) value false))

/-- KNOT_DBG_ADD (R187) -/
def execKnotDbgAdd (knot value : Nat) (s : State) : Host.Outcome State Fault Refusal :=
  .next (mmio s 0 0x50104 (fun s => knotByHand s (knot % 64) value true))

/-- LIB.CACHE_GIB, HBM_SHARE, BI_TIMEOUT, STAGE_LIMIT (Table 14-5, R348). -/
def writeLib (s : State) (off v : Nat) : State :=
  if off = 0x90008 then
    let g := v % 128
    if 8 ≤ g && g ≤ 64 then { s with lib := { s.lib with cacheGib := g } } else regValue s 0 off
  else if off = 0x9000C then
    let x := v % 32
    if 1 ≤ x && x ≤ 16 then
      if timeRuns s then { s with lib := { s.lib with shareNext := some x } } else { s with lib := { s.lib with share := x, shareNext := none } }
    else regValue s 0 off
  else if off = 0x90010 then
    let t := v % 2 ^ 14
    if 10 ≤ t && t ≤ 10000 then { s with lib := { s.lib with biTimeout := t } } else regValue s 0 off
  else if off = 0x90018 then
    let g := v % 256
    if !s.lib.recs.isEmpty || s.str.table.any (fun x => x.2.model != 0) then lockedWrite s 0 off (g == s.lib.stageLimit)
    else if 1 ≤ g && g ≤ 192 - s.lib.cacheGibInUse then { s with lib := { s.lib with stageLimit := g } }
    else regValue s 0 off
  else s

/-- DBG.POOL_ADDR; every DBG write is ignored and logged while debug is locked (R345). -/
def writeDbg (s : State) (off v : Nat) : State :=
  if !s.err.unlocked then regAccess s 0 off true
  else if off = 0xF0008 then { s with dbg := { s.dbg with poolAddr := v % 2 ^ 24 } } else s

/-- A write to a known register: its action, or nothing for one that is RO. -/
def writeKnown (s : State) (fn off v : Nat) : State :=
  if fn ≠ 0 || (0x10000 ≤ off && off < 0x20000) then writeFnReg s fn off v
  else if off = 0x30000 then writePeriod s off (v % 256)
  else if off = 0x50100 then writeHold s off (bitAt v 0)
  else if off = 0x50104 then knotByHand s (v % 64) (v / 65536) (bitAt v 6)
  else if 0x90000 ≤ off && off < 0xA0000 then writeLib s off v
  else if 0xF0000 ≤ off then writeDbg s off v
  else s

/-- A write of a word of the MSI-X table; the PBA is read-only (PCIe 6.0; log 82). -/
def writeMsix (s : State) (n off v : Nat) : State :=
  let i := off / 16
  let e := tabGet { address := 0, data := 0 } (fnOf s n).msix i
  let put := fun (e : MsixEntry) => modFn s n (fun f => { f with msix := tabSet i e f.msix })
  if vectorCount n ≤ i then s
  else if off % 16 = 0 then put { e with address := e.address / 2 ^ 32 * 2 ^ 32 + v / 4 * 4 }
  else if off % 16 = 4 then put { e with address := e.address % 2 ^ 32 + v * 2 ^ 32 }
  else if off % 16 = 8 then put { e with data := v }
  else setMask s n i (bitAt v 0)

/-- An aligned write of one word of a window. -/
def writeWord (s : State) (w off : Nat) (v : Reg) : State :=
  if ldFn w || w = serviceFn || w = componentBar then s
  else if isMsixBar w then writeMsix s (w - 1024) off v.toNat
  else if w = jtagFn then (if 0xF0000 ≤ off && regKnown 0 off then writeKnown s 0 off v.toNat else s)
  else if regKnown w off then writeKnown s w off v.toNat
  else regAccess s w off true

def regWrite (s : State) (fn off : Nat) (v : Reg) : State :=
  if off % 4 ≠ 0 then narrow s fn off 32 true else mmio s fn off (fun s => writeWord s fn off v)

/-- A 64-bit aligned write: both words in one transaction (R2). -/
def write64 (s : State) (fn off v : Nat) : State :=
  mmio s fn off (fun s => writeWord (writeWord s fn off (BitVec.ofNat 32 v)) fn (off + 4) (BitVec.ofNat 32 (v / 2 ^ 32)))

/-- REGISTER_WRITE (R347) -/
def execRegisterWrite (fn offset : Nat) (value : Reg) (s : State) : Host.Outcome State Fault Refusal := .next (regWrite s fn offset value)

/-- An access of a width in bits: narrower than 32 or not naturally aligned (R3), else of one word or of both (R2). -/
def anyAccess (s : State) (fn off width : Nat) (write : Option Nat) : State :=
  if width < 32 || off % (width / 8) ≠ 0 then narrow s fn off width write.isSome
  else match write with
    | none => if width < 64 then read32 s fn off else read64 s fn off
    | some v => if width < 64 then regWrite s fn off (BitVec.ofNat 32 v) else write64 s fn off v

/-- NARROW_ACCESS (R3) -/
def execNarrowAccess (fn offset width : Nat) (write : Option Nat) (s : State) : Host.Outcome State Fault Refusal :=
  .next (anyAccess s fn offset width write)

end Sys2Proof.Machine
end

