-- ==== Sys2Proof/Machine/PlanImage.lean ====
section
/-! DEFINITION. The plan image (07, "The plan image"): its header, sections and queues as data, the checks of R145 step 6,
and the encoding of every instruction (Tables 7-2 to 7-9; R140, R142, R160, R169, R173 to R176, R179, R213, R224, R225). -/

namespace Sys2Proof.Machine

/-! ### The header (Table 7-12) -/

def plLen (b : List Byte) : Nat := leAt b 8 4
def plSetId (b : List Byte) : Nat := leAt b 16 8
def plQuarters (b : List Byte) : Nat := leAt b 24 1
def plRingCount (b : List Byte) : Nat := leAt b 25 1
def plModelCount (b : List Byte) : Nat := leAt b 26 2
def plGraftCount (b : List Byte) : Nat := leAt b 28 2
def plSchedCount (b : List Byte) : Nat := leAt b 30 2
def plCatchup (b : List Byte) : List Nat := (bytesAt b 32 4).map (·.toNat)
def plQueueOff (b : List Byte) (q : Nat) : Nat := leAt b (64 + 8 * q) 4
def plQueueCount (b : List Byte) (q : Nat) : Nat := leAt b (68 + 8 * q) 4
def plSection (b : List Byte) (i : Nat) : Nat := leAt b (128 + 4 * i) 4
def plKnot (b : List Byte) (k : Nat) : Nat × Nat := (leAt b (224 + 8 * k) 2, leAt b (226 + 8 * k) 2)

/-- MAGIC, VERSION, HDR_LEN, PLAN_SET_ID and the reserved bytes of the header (R145 step 3). -/
def plHeaderOk (b : List Byte) : Bool :=
  b.take 4 == [0x53, 0x4B, 0x50, 0x4C] && leAt b 4 2 == 1 && leAt b 6 2 == 4096 && plSetId b != 0 &&
    zeroAt b 36 28 && zeroAt b 164 28 && zeroAt b 608 3488 && (List.range 48).all (fun k => zeroAt b (228 + 8 * k) 4)

/-- CRC-32C of the image with its own four bytes zero (R145 step 5). -/
def plCrcOk (b : List Byte) : Bool := leAt b 12 4 == crc32c (b.take 12 ++ [0, 0, 0, 0] ++ b.drop 16)

/-! ### Table entries -/

def plModel (b : List Byte) (i : Nat) : ModelEntry :=
  let e := bytesAt b (plSection b 0 + 64 * i) 64
  { modelId := leAt e 0 4, ring := leAt e 4 1, resultEntries := leAt e 5 1, keySlot := leAt e 6 2, keyId := leAt e 8 4
    nonceBase := bytesAt e 12 12, home := leAt e 24 2, maxBound := leAt e 28 4, maxBoundA := leAt e 32 4
    stateLen := leAt e 36 4, initAddr := leAt e 40 8 }

def plGraft (b : List Byte) (i : Nat) : GraftEntry :=
  let e := bytesAt b (plSection b 1 + 64 * i) 64
  { graftId := leAt e 0 4, period := leAt e 4 2, model := leAt e 6 2, home := leAt e 8 2, stateAddr := leAt e 16 8
    stateLen := leAt e 24 8, copy0 := leAt e 32 8, copy1 := leAt e 40 8 }

def plSched (b : List Byte) (i : Nat) : SchedEntry :=
  let e := bytesAt b (plSection b 3 + 16 * i) 16
  { offset := leAt e 0 4, port := leAt e 4 1, kind := leAt e 5 1, peer := leAt e 6 2, block := leAt e 8 4
    model := leAt e 12 2, len := leAt e 14 2 }

/-- The bytes of a ring entry of m members. -/
def ringSpan (m : Nat) : Nat := 16 + 16 * ceilDiv (2 * m) 16

def plRing (b : List Byte) (off : Nat) : RingEntry :=
  let m := leAt b (off + 2) 2
  { ringId := leAt b off 2, position := leAt b (off + 4) 2, members := wordsOf 2 m (bytesAt b (off + 16) (2 * m)) }

/-- A ring entry by itself (R145 step 6), for the chip's ID if it holds one. -/
def plRingOk (b : List Byte) (off : Nat) (chip : Option Nat) : Bool :=
  let m := leAt b (off + 2) 2
  let r := plRing b off
  decide (2 ≤ m) && decide (m ≤ 2048) && decide (r.position < m) && zeroAt b (off + 6) 10 &&
    decide (off + ringSpan m ≤ plLen b) && zeroAt b (off + 16 + 2 * m) (ringSpan m - 16 - 2 * m) &&
    r.members.all (fun x => decide (x < 2048)) && decide r.members.Nodup &&
    chip.isSome && r.members[r.position]? == chip

/-- n ring entries from an offset on, and the offset after the last; none where one is bad. -/
def plRings (b : List Byte) (chip : Option Nat) : Nat → Nat → Option (List RingEntry × Nat)
  | 0, off => some ([], off)
  | n + 1, off =>
    if plRingOk b off chip then
      (plRings b chip n (off + ringSpan (leAt b (off + 2) 2))).map (fun r => (plRing b off :: r.1, r.2))
    else none

/-- The instruction stream of a queue. -/
def plQueue (b : List Byte) (q : Nat) : List Insn :=
  (cut 16 (plQueueCount b q) (bytesAt b (plQueueOff b q) (16 * plQueueCount b q))).map (fun w => BitVec.ofNat 128 (leNat w))

/-- The plan that an image holds, with its rings as found. -/
def plPlan (b : List Byte) (rings : List RingEntry) : Plan :=
  { setId := plSetId b, quarters := plQuarters b, catchup := plCatchup b
    energy := (List.range 4).map (fun c => leAt b (144 + 4 * c) 4), energyFixed := leAt b 160 4, keys := leAt b 192 32
    knots := (List.range 48).map (plKnot b), models := (List.range (plModelCount b)).map (plModel b)
    grafts := (List.range (plGraftCount b)).map (plGraft b), rings := rings
    sched := (List.range (plSchedCount b)).map (plSched b), queues := (List.range 8).map (plQueue b), fixedFor := [] }

/-! ### R145 step 6 -/

/-- The largest of the CATCHUP values (R136). -/
def planCatchup (p : Plan) : Nat := p.catchup.foldl max 1

/-- TPR × CATCHUP_MAX of a model entry (R136). -/
def planTiles (p : Plan) (m : ModelEntry) : Nat := ceilDiv m.maxBound 64 * planCatchup p

/-- A range of HBM that exists (Table 14-1; log 47). -/
def hbmHolds (a n : Nat) : Bool := decide (a + n ≤ hbmEnd)

def countsOk (b : List Byte) : Bool :=
  decide (plRingCount b ≤ 8) && decide (plModelCount b ≤ 2048) && decide (plGraftCount b ≤ 255) &&
    (plCatchup b).all (fun c => decide (1 ≤ c) && decide (c ≤ 4)) && getAt 0 (plCatchup b) 0 == 1 &&
    (List.range 8).all (fun q => decide (1 ≤ plQueueCount b q))

/-- The KNOTS field (R173). -/
def knotsOk (b : List Byte) : Bool :=
  (List.range 48).all (fun k =>
    let x := plKnot b k
    if k < 32 then x.2 == 0 else decide (x.2 ≤ 4095) && decide (x.1 ≤ x.2))

/-- The sections as (offset, bytes): model, graft, ring, schedule, and the eight queues. -/
def plSpans (b : List Byte) (ringEnd : Nat) : List (Nat × Nat) :=
  [(plSection b 0, 64 * plModelCount b), (plSection b 1, 64 * plGraftCount b), (plSection b 2, ringEnd - plSection b 2),
   (plSection b 3, 16 * plSchedCount b)] ++ (List.range 8).map (fun q => (plQueueOff b q, 16 * plQueueCount b q))

def spansMeet (a c : Nat × Nat) : Bool := decide (a.1 < c.1 + c.2) && decide (c.1 < a.1 + a.2)

/-- Every section aligned, past the header, within the image, and clear of the others; an empty one need only be aligned. -/
def spansOk (b : List Byte) (spans : List (Nat × Nat)) : Bool :=
  spans.all (fun x => x.1 % 64 == 0 && (x.2 == 0 || (decide (4096 ≤ x.1) && decide (x.1 + x.2 ≤ plLen b)))) &&
    decide ((spans.filter (·.2 != 0)).Pairwise (fun x y => spansMeet x y = false))

/-- A model entry (Table 7-13). Within one ring a model has one home (R16): the model's reading of the check is log 98. -/
def modelOk (b : List Byte) (p : Plan) (i : Nat) : Bool :=
  let m := plModel b i
  let e := plSection b 0 + 64 * i
  m.modelId != 0 && decide (1 ≤ m.resultEntries) && decide (m.resultEntries ≤ 8) && decide (m.keySlot ≤ 255) &&
    p.keys.testBit m.keySlot && zeroAt b (e + 26) 2 && zeroAt b (e + 48) 16 && decide (1 ≤ m.maxBound) &&
    decide (m.maxBound ≤ 65536) && decide (m.maxBoundA ≤ m.maxBound) && m.stateLen % 64 == 0 &&
    hbmHolds m.initAddr m.stateLen && decide (planTiles p m ≤ 4096) &&
    (match p.rings[m.ring]? with
     | some r => r.members.contains m.home
     | none => false) &&
    p.models.all (fun x => x.modelId != m.modelId || x.ring != m.ring || x.home == m.home)

def graftOk (b : List Byte) (p : Plan) (i : Nat) : Bool :=
  let g := plGraft b i
  let e := plSection b 1 + 64 * i
  decide (1 ≤ g.period) && decide (g.model < p.models.length) && decide (g.home < 2048) && zeroAt b (e + 10) 6 &&
    zeroAt b (e + 48) 16 && hbmHolds g.stateAddr g.stateLen && hbmHolds g.copy0 g.stateLen && hbmHolds g.copy1 g.stateLen

/-- A block is launched by its model's home chip alone (R16), a block of a graft by any chip that holds the graft (R128; log 98). -/
def launchOk (p : Plan) (chip : Option Nat) (x : SchedEntry) : Bool :=
  x.kind != 0 || ((p.models[x.model]?).map (·.home)) == chip || p.grafts.any (fun g => g.model == x.model)

/-- A schedule entry (Table 7-14). OFFSET is judged against T where QUARTERS is a valid period; step 7 refuses any other. -/
def schedOk (p : Plan) (chip : Option Nat) (x : SchedEntry) : Bool :=
  launchOk p chip x &&
  (decide (p.quarters < 4) || decide (160 < p.quarters) || decide (x.offset < 250000 * p.quarters)) && decide (x.port ≤ 7) &&
    decide (x.kind ≤ 2) && decide (x.peer < 2048) && decide (x.model < p.models.length) && decide (1 ≤ x.len) &&
    decide (x.len ≤ 1024)

/-- R145 step 6: the plan, where its counts, sections and table entries hold. -/
def plSections (b : List Byte) (chip : Option Nat) : Option Plan :=
  if !countsOk b || !knotsOk b then none
  else
    match plRings b chip (plRingCount b) (plSection b 2) with
    | none => none
    | some (rings, ringEnd) =>
      if !spansOk b (plSpans b ringEnd) then none
      else
        let p := plPlan b rings
        if (List.range p.models.length).all (modelOk b p) && (List.range p.grafts.length).all (graftOk b p) &&
            p.sched.all (schedOk p chip) then some p
        else none

/-! ### Encodings (R145 step 8) -/

/-- The bits above GATE that an opcode uses, as (high, low) runs of adjoining fields (Tables 7-4 to 7-8); none for a reserved opcode. -/
def usedBits (op : Nat) : Option (List (Nat × Nat)) :=
  match op with
  | 0x00 => some []
  | 0x01 => some [(17, 16)]
  | 0x02 => some [(22, 16), (26, 24), (38, 28), (55, 40)]
  | 0x03 => some [(21, 16), (47, 32)]
  | 0x04 => some [(26, 16)]
  | 0x05 => some [(47, 16)]
  | 0x0F => some []
  | 0x10 => some [(41, 16), (79, 48), (90, 80), (103, 92)]
  | 0x11 => some [(95, 16)]
  | 0x12 => some [(95, 16)]
  | 0x13 => some [(109, 16)]
  | 0x14 => some [(42, 16), (79, 48)]
  | 0x20 => some [(64, 16)]
  | 0x30 => some [(49, 16)]
  | 0x31 => some [(49, 16)]
  | 0x40 => some [(97, 16)]
  | 0x41 => some [(97, 16)]
  | 0x50 => some [(104, 16)]
  | 0x60 => some [(102, 16)]
  | 0x70 => some [(125, 16)]
  | 0x80 => some [(74, 16)]
  | 0x81 => some [(65, 16)]
  | 0x82 => some [(26, 16), (69, 32)]
  | _ => none

/-- Opcode known and bits outside its fields zero. -/
def bitsOk (w : Insn) : Bool :=
  match usedBits (opcodeOf w) with
  | none => false
  | some runs => w.toNat &&& (2 ^ 128 - 2 ^ 11 - (runs.map (fun r => 2 ^ (r.1 + 1) - 2 ^ r.2)).sum) == 0

/-- The queue of an opcode of one engine (Table 7-3). -/
def homeQueue (op : Nat) : Option Nat := if op < 0x10 then none else some (op / 16 - 1)

/-- Tables 7-2 and 7-3: opcode, queue, reserved bits, GATE. -/
def commonOk (q : Nat) (w : Insn) : Bool :=
  bitsOk w && decide (gateOf w ≤ 5) &&
    (match homeQueue (opcodeOf w) with
     | some h => h == q
     | none => true)

/-- A knot that an instruction may name as DK or EK (Table 7-2, R173). -/
def knotUsable (p : Plan) (k : Nat) : Bool := decide (k < 48) && (decide (k < 32) || (getAt (0, 0) p.knots k).2 != 0)

def doneFieldOk (p : Plan) (w : Insn) (lo : Nat) : Bool :=
  fieldOf w (lo + 5) lo == 63 || knotUsable p (fieldOf w (lo + 5) lo)

/-- A push field: without bit 4 its other bits are zero. -/
def pushFieldOk (w : Insn) (lo : Nat) : Bool := bitAt w.toNat (lo + 4) || fieldOf w (lo + 3) lo == 0

/-- A handle operand: with bit 10 its bits [9:4] are zero. -/
def handleFieldOk (w : Insn) (lo : Nat) : Bool := !bitAt w.toNat (lo + 10) || fieldOf w (lo + 9) (lo + 4) == 0

/-- The MODEL and TILE fields of an opcode that has both. -/
def tileFieldsOk (p : Plan) (w : Insn) : Bool :=
  match tileLo (opcodeOf w) with
  | none => true
  | some (m, t) =>
    match p.models[fieldOf w (m + 11) m]? with
    | some e => decide (fieldOf w (t + 11) t < planTiles p e)
    | none => opcodeOf w == 0x70 && fieldOf w (m + 11) m == 0xFFF

/-- A region of n units from work-area unit `a` on lies in the work area. -/
def regionOk (a n : Nat) : Bool := decide (a + n ≤ 786432)

/-- The operand kinds that recur: done knot, pushes, handle, tile. -/
def operandsOk (p : Plan) (w : Insn) : Bool :=
  (match doneKnotLo (opcodeOf w) with
   | some lo => doneFieldOk p w lo
   | none => true) &&
  (pushLos (opcodeOf w)).all (pushFieldOk w) &&
  (match handleLo w with
   | some (lo, _) => handleFieldOk w lo
   | none => true) &&
  tileFieldsOk p w

/-- SIGNAL (R174, R176, R179). -/
def signalOk (p : Plan) (chip : Nat) (w : Insn) : Bool :=
  let k := fieldOf w 21 16
  let a := fieldOf w 55 40
  decide (k < 48) &&
  (if bitAt w.toNat 22 then
    remoteAmountOk k a && fieldOf w 38 28 != chip && p.rings.any (fun r => r.members.contains (fieldOf w 38 28))
   else knotUsable p k && remoteAmountOk k a && (decide (k < 32) || decide (a % 4096 ≤ (getAt (0, 0) p.knots k).2)))

/-- WAIT (R175, R176). -/
def waitOk (p : Plan) (w : Insn) : Bool :=
  let k := fieldOf w 21 16
  let v := fieldOf w 47 32
  knotUsable p k && (decide (k < 32) || (decide (1 ≤ v) && decide (v ≤ (getAt (0, 0) p.knots k).2)))

/-- The handle queues that an instruction pushes into. -/
def pushedInto (w : Insn) : List Nat := (pushesOf w).filterMap id

/-- LOAD.BLOCK (Table 7-5; R140, R224). -/
def loadBlockOk (p : Plan) (w : Insn) : Bool :=
  let t := fieldOf w 103 92
  let toHome := (pushedInto w).contains 0
  decide (1 ≤ fieldOf w 90 80) && decide (fieldOf w 90 80 ≤ 1024) && hbmHolds (64 * fieldOf w 79 48) (64 * fieldOf w 90 80) &&
    (t == 0xFFF || decide (t < p.models.length)) && (!toHome || t == 0xFFF) &&
    (!(toHome || isCarryLoad w) || gateOf w == 0)

/-- A SCHED field that names an entry of a kind, of an instruction that runs always (R224). -/
def schedFieldOk (p : Plan) (w : Insn) (kind : Nat) : Bool :=
  gateOf w == 0 &&
    (match p.sched[fieldOf w 31 16]? with
     | some x => x.kind == kind
     | none => false)

/-- LATTICE.MUL (Table 7-7; R142, R152, R153, R157). -/
def latticeOk (w : Insn) : Bool :=
  let prec := fieldOf w 18 16
  let b1 := prec == 0
  decide (prec ≤ 4) && decide (fieldOf w 20 19 < max prec 1) &&
    (bitAt w.toNat 34 || fieldOf w 33 24 % (if b1 then 16 else 2) == 0) &&
    regionOk (fieldOf w 54 35) (if b1 then 4096 else 512) && regionOk (fieldOf w 74 55) 8192

/-- PLINTH.MMA (Table 7-7; R162). -/
def plinthOk (w : Insn) : Bool :=
  let wf := fieldOf w 17 16
  let af := fieldOf w 19 18
  wf != 3 && af != 3 && (wf == 0) == (af == 0) && regionOk (fieldOf w 52 33) 1024 && regionOk (fieldOf w 72 53) 256

/-- The 64-byte units that a VECTOR function writes at D, for N vectors (R157, R165, R167, R169). -/
def vecDest (func n k : Nat) : Nat :=
  if func = 0x30 then 512 * ceilDiv (2 * n) 512
  else if func = 0x31 then 1024 * ceilDiv (2 * n) 512
  else if func = 0x32 then 1024 * ceilDiv (2 * n) 1024
  else if func = 0x40 then 4
  else if func = 0x41 then 8 * k
  else 8 * n

/-- The functions of Table 7-9. -/
def vecFuncs : List Nat := [0x01, 0x02, 0x03, 0x04, 0x10, 0x11, 0x12, 0x13, 0x14, 0x15, 0x20, 0x21, 0x30, 0x31, 0x32, 0x40, 0x41]

/-- S1 of a VECTOR function, with COMBINE's column-scale record below D (Table 7-9; R159, R160, R167, R169). -/
def vecSecondOk (func n s1 d : Nat) : Bool :=
  if func = 0x01 then decide (n ≤ 1024) && decide (s1 < 2 ^ 18) && (bitAt s1 17 || decide (4 ≤ d))
  else if func = 0x02 || func = 0x03 || func = 0x04 then regionOk s1 (8 * n)
  else if func = 0x21 then regionOk s1 (ceilDiv (16 * n) 64)
  else if func = 0x30 then regionOk s1 4
  else if func = 0x41 then decide (1 ≤ s1) && decide (s1 ≤ 64) && decide (s1 ≤ 2 * n)
  else s1 == 0

/-- VECTOR.OP (Tables 7-8, 7-9, 8-1). -/
def vectorOk (w : Insn) : Bool :=
  let func := fieldOf w 23 16
  let n := fieldOf w 95 84
  let s1 := fieldOf w 63 44
  let d := fieldOf w 83 64
  vecFuncs.contains func && decide (1 ≤ n) && regionOk (fieldOf w 43 24) (8 * n) && regionOk d (vecDest func n s1) &&
    vecSecondOk func n s1 d

/-- What an opcode asks of its own fields (Tables 7-4 to 7-9). -/
def fieldsOk (p : Plan) (chip q : Nat) (w : Insn) : Bool :=
  match opcodeOf w with
  | 0x01 => fieldOf w 17 16 == 0 || (fieldOf w 17 16 == 1 && q == 2)
  | 0x02 => signalOk p chip w
  | 0x03 => waitOk p w
  | 0x05 => decide (fieldOf w 47 16 < 250000 * p.quarters)
  | 0x10 => loadBlockOk p w
  | 0x11 => decide (1 ≤ fieldOf w 89 78) && regionOk (fieldOf w 59 40) (64 * fieldOf w 89 78)
  | 0x12 => decide (1 ≤ fieldOf w 89 78) && regionOk (fieldOf w 59 40) (64 * fieldOf w 89 78)
  | 0x13 => decide (1 ≤ fieldOf w 103 80) && (copyRanges w).all (fun r => hbmHolds r.1 r.2)
  | 0x14 => fieldOf w 73 72 != 3 &&
      decide ((fieldOf w 59 48 + 1) * (fieldOf w 71 60 + 1) * (if fieldOf w 73 72 = 0 then 1 else 8 * fieldOf w 73 72) ≤ 524288)
  | 0x20 => schedFieldOk p w 2 && doneFieldOk p w 53
  | 0x30 => schedFieldOk p w 0
  | 0x31 => schedFieldOk p w 1
  | 0x40 => decide (fieldOf w 27 16 < p.models.length)
  | 0x41 => decide (fieldOf w 27 16 < p.models.length)
  | 0x50 => latticeOk w
  | 0x60 => plinthOk w
  | 0x70 => vectorOk w
  | 0x80 => decide (1 ≤ fieldOf w 68 60) && decide (fieldOf w 68 60 ≤ 256) && regionOk (fieldOf w 59 40) (64 * fieldOf w 68 60)
  | 0x81 => regionOk (fieldOf w 59 40) (64 * ((p.models[fieldOf w 27 16]?).map (·.resultEntries)).getD 1)
  | 0x82 => fieldOf w 26 16 == 0 || decide (16 ≤ fieldOf w 26 16)
  | _ => true

/-- One instruction by itself. -/
def insnOk (p : Plan) (chip q : Nat) (w : Insn) : Bool := commonOk q w && operandsOk p w && fieldsOk p chip q w

/-! ### Handle queues and carry loads over the whole plan -/

/-- The engine that pushes into and the one that pops from HQ0 to HQ10 (Table 11-2). -/
def hqRole (hq : Nat) : Option (Nat × Nat) :=
  [(0, 2), (0, 3), (1, 2), (1, 3), (3, 4), (3, 5), (3, 6), (3, 0), (0, 4), (0, 5), (3, 2)][hq]?

/-- The handle queue that an instruction pops. -/
def poppedFrom (w : Insn) : List Nat :=
  match handleLo w with
  | some (lo, _) => if bitAt w.toNat (lo + 10) then [fieldOf w (lo + 3) lo] else []
  | none => []

/-- What a scan of the queues has seen: the engine that pushes into and that pops from each handle queue, and the carry loads. -/
structure ScanAcc where
  pushers : List (Nat × Nat)
  poppers : List (Nat × Nat)
  carries : Nat
  deriving DecidableEq, Repr

/-- Uses of handle queues by engine q that agree with those seen and with Table 11-2 (R135, R213); the table of engines grown by them. -/
def takeRoles (q : Nat) (side : Nat × Nat → Nat) : List (Nat × Nat) → List Nat → Option (List (Nat × Nat))
  | seen, [] => some seen
  | seen, hq :: t =>
    if tabGet q seen hq = q && (match hqRole hq with
        | some r => side r == q
        | none => true) then takeRoles q side (tabSet hq q seen) t
    else none

/-- One instruction of the scan; none where it is refused. -/
def scanOne (p : Plan) (chip q : Nat) (a : ScanAcc) (w : Insn) : Option ScanAcc :=
  if !insnOk p chip q w then none
  else
    match takeRoles q (·.1) a.pushers (pushedInto w), takeRoles q (·.2) a.poppers (poppedFrom w) with
    | some pu, some po =>
      let n := a.carries + b2n (isCarryLoad w)
      if 64 < n then none else some { pushers := pu, poppers := po, carries := n }
    | _, _ => none

/-- The instructions of a queue from index i on: the index of the first refused, or what was seen. A queue that does not end with END is refused at its last instruction. -/
def scanQueue (p : Plan) (chip q : Nat) : Nat → ScanAcc → List Insn → Except Nat ScanAcc
  | _, a, [] => .ok a
  | i, a, w :: t =>
    match scanOne p chip q a w with
    | none => .error i
    | some a' => if t.isEmpty && opcodeOf w != 0x0F then .error i else scanQueue p chip q (i + 1) a' t

/-- The queues from q on: DETAIL of the first refused instruction (queue, and index at bit 8), if any. -/
def scanQueues (p : Plan) (chip : Nat) : Nat → ScanAcc → List (List Insn) → Option Nat
  | _, _, [] => none
  | q, a, ws :: t =>
    match scanQueue p chip q 0 a ws with
    | .error i => some (q + i % 2 ^ 24 * 2 ^ 8)
    | .ok a' => scanQueues p chip (q + 1) a' t

/-- R145 step 8. -/
def planBad (p : Plan) (chip : Nat) : Option Nat := scanQueues p chip 0 { pushers := [], poppers := [], carries := 0 } p.queues

end Sys2Proof.Machine
end

