-- ==== Sys2Proof/Machine/PlanCmd.lean ====
section
/-! DEFINITION. PLAN_LOAD, PLAN_COMMIT and PLAN_CANCEL (07, 11, 15: R145 to R147, R228, R300). -/

namespace Sys2Proof.Machine

/-! ### PLAN_LOAD (R145) -/

/-- A key slot of KEYS that is empty, or a model whose KEY_ID is not that of its slot (R145 step 9). -/
def planKeyBad (s : State) (p : Plan) : Bool :=
  (List.range 256).any (fun k => p.keys.testBit k && (keyOf s k).isNone) ||
    p.models.any (fun m => (keyOf s m.keySlot).map (·.keyId) != some m.keyId)

/-- The chip's ID, where it holds one (LINK.CHIP_ID.VALID). -/
def chipIdOf (s : State) : Option Nat := if s.link.valid then some s.link.chipId else none

/-- Steps 3 to 9 of R145 on an image: the plan, or the status and DETAIL. -/
def planCheck (s : State) (len : Nat) (b : List Byte) : Except (Nat × Nat) Plan :=
  if !plHeaderOk b then .error (0xC0, 0)
  else if plLen b ≠ len || 6 * 2 ^ 20 < plLen b then .error (0xC1, 0)
  else if !plCrcOk b then .error (0xC2, 0)
  else
    match plSections b (chipIdOf s) with
    | none => .error (0xC3, 0)
    | some p =>
      if p.quarters ≠ s.tick.quarters then .error (0xC5, 0)
      else
        match planBad p s.link.chipId with
        | some detail => .error (0xC4, detail)
        | none => if planKeyBad s p then .error (0xC6, 0) else .ok p

/-- The plan buffer that is not the active one. -/
def standbyBuffer (s : State) : Nat := if s.core.activeBuf then 0 else 1

/-- The image replaces any unarmed plan in the standby buffer. -/
def takePlan (s : State) (b : List Byte) (p : Plan) : State :=
  let s := poolWrite s (planBase (standbyBuffer s)) b
  { s with core := { s.core with standby := some p, armed := false } }

def loadImage (s : State) (d : Desc) (b : List Byte) : State :=
  match planCheck s (aLen d) b with
  | .error e => adminDone s d e.1 e.2
  | .ok p => adminDone (takePlan s b p) d 0 0

/-- Step 2 precedes the image: an armed plan is PLAN_PENDING whatever the buffer holds. -/
def planLoad (s : State) (d : Desc) (buf : DmaRead) : State :=
  admin s d 0x10 (fun s =>
    if s.core.armed then adminDone s d 0xC7 0 else withBuffer s d buf (fun b s => loadImage s d b))

/-- PLAN_LOAD (R145) -/
def execPlanLoad (d : Desc) (buf : DmaRead) (s : State) : Host.Outcome State Fault Refusal := .next (planLoad s d buf)

/-! ### PLAN_COMMIT (R146, R147) -/

/-- Bytes that a plan declares on a port: received (`land`) or sent. -/
def planTraffic (p : Plan) (port : Nat) (land : Bool) : Nat :=
  ((p.sched.filter (fun x => x.port == port && (x.kind == 2) == land)).map (fun x => 64 * x.len)).sum

/-- The traffic limit of R23: 16 bytes per ns over T. -/
def trafficOk (p : Plan) : Bool :=
  (List.range 8).all (fun port => [false, true].all (fun land => decide (planTraffic p port land ≤ 16 * (250000 * p.quarters))))

/-- The result-entry limit of R110. -/
def resultsOk (p : Plan) : Bool := decide ((p.models.map (fun m => m.maxBoundA * m.resultEntries)).sum ≤ 65536)

/-- ENERGY.A + ENERGY.FIXED within the floor budget (350 W − BASE_W) × T (R300). -/
def floorOk (p : Plan) (baseW : Nat) : Bool :=
  decide (4 * (getAt 0 p.energy 0 + p.energyFixed) + baseW * p.quarters ≤ 350 * p.quarters)

/-- Steps 2 to 6 of R146: 0 or the status. -/
def commitCheck (s : State) (n : Nat) : Nat :=
  match s.core.standby with
  | none => 0xC8
  | some p =>
    if s.core.armed || !s.boot.hbmOk then 0xC8
    else if !timeRuns s || n < s.tick.index + 2 || s.tick.index + 1000 < n then 0xC9
    else if !trafficOk p then 0xCA
    else if !resultsOk p then 0xCB
    else if !floorOk p s.pwr.policy.baseW then 0xCC
    else 0

/-- COMMIT_CHECK to every other member; the plan is armed at once where there is none. -/
def beginCommit (s : State) (d : Desc) (n : Nat) : State :=
  commitEval (sendEach (adminWait s d (.commit n)) (standbyPartners s) 0x21 (checkBody s n))

def planCommit (s : State) (d : Desc) : State :=
  admin s d 0x11 (fun s =>
    let n := aArg0 d
    let st := commitCheck s n
    if st = 0 then beginCommit s d n else adminDone s d st 0)

/-- PLAN_COMMIT (R146) -/
def execPlanCommit (d : Desc) (s : State) : Host.Outcome State Fault Refusal := .next (planCommit s d)

/-! ### PLAN_CANCEL (R228) -/

/-- Grove time has reached boundary N − 100 µs. -/
def cancelTooLate (s : State) : Bool :=
  s.core.armed && decide (boundaryNs s s.core.commitN ≤ s.time.now + 100000)

/-- The standby buffer empties; an armed plan's members are told. -/
def dropStandby (s : State) : State :=
  let s := if s.core.armed then sendAborts s s.core.commitN else s
  let s := planWithdrawn s (standbyId s)
  { s with core := { s.core with standby := none, armed := false, commitN := 0 } }

def planCancel (s : State) (d : Desc) : State :=
  admin s d 0x12 (fun s =>
    if s.core.standby.isNone then adminDone s d 0xC0 0
    else if cancelTooLate s then adminDone s d 0xC1 0
    else adminDone (dropStandby s) d 0 0)

/-- PLAN_CANCEL (R228) -/
def execPlanCancel (d : Desc) (s : State) : Host.Outcome State Fault Refusal := .next (planCancel s d)

end Sys2Proof.Machine
end

