-- ==== Sys2Proof/Machine/AdminCmds.lean ====
section
/-! DEFINITION. Admin commands on keys, tenants, knots, power, debug, logs and slices (05, 09, 12, 15, 17: R93, R94, R97, R98,
R106, R180, R188, R248, R304, R336, R338, R351). -/

namespace Sys2Proof.Machine

/-! ### Keys (R97, R98) -/

/-- FixedInfo of the one-step KDF: `SK6-OPK`, TEN.SERIAL, SLOT (05, "KEY_LOAD and KEY_CLEAR"). -/
def opkInfo (s : State) (slot : Nat) : List Byte :=
  [0x53, 0x4B, 0x36, 0x2D, 0x4F, 0x50, 0x4B] ++ leBytes 8 s.fuse.serial ++ leBytes 2 slot

/-- The key-encryption key and the wrapped key of a buffer (Table 5-7); none where the ephemeral point is not on the curve. -/
def keyWrap (s : State) (slot wrap : Nat) (b : List Byte) : Option (List Byte × List Byte) :=
  if wrap = 7 then
    let x := beNat (bytesAt b 0 48)
    let y := beNat (bytesAt b 48 48)
    if onCurve x y then some (kdfOneStep (ecdhZ s.fuse.idPriv x y) (opkInfo s slot), bytesAt b 96 48) else none
  else (keyOf s (256 + wrap)).map (fun k => (k.key, bytesAt b 0 48))

/-- Reserved bytes of the buffer (Table 5-7). -/
def keySpareOk (wrap : Nat) (b : List Byte) : Bool := if wrap = 7 then zeroAt b 144 48 else zeroAt b 48 16

/-- Step 5 of R97 on a 40-byte plaintext (Table 5-6). -/
def keyPlainOk (s : State) (slot : Nat) (pt : List Byte) : Bool :=
  leAt pt 38 2 == slot && leAt pt 32 4 != 0 && leAt pt 37 1 == 0 &&
    (if 256 ≤ slot then leAt pt 36 1 == 0xFF else (tenOf s (leAt pt 36 1)).enabled)

/-- The slot's new contents, with a fresh salt (R199), at the ADMIN_DONE (R97). -/
def takeKey (s : State) (d : Desc) (slot : Nat) (pt : List Byte) : State :=
  let p := drawRandom s (2 ^ 27)
  adminDoneWith p.2 d (.key slot { key := pt.take 32, keyId := leAt pt 32 4, owner := leAt pt 36 1, salt := p.1 })

/-- Steps 4 and 5 of R97, and the load. -/
def loadKey (s : State) (d : Desc) (b : List Byte) : State :=
  let slot := aArg0 d % 512
  let wrap := bitsOf (aArg0 d) 18 16
  match keyWrap s slot wrap b with
  | none => adminDone s d 0x85 0
  | some (kek, wrapped) =>
    match kwUnwrap kek wrapped with
    | none => adminDone s d 0x85 0
    | some pt =>
      if keyPlainOk s slot pt && keySpareOk wrap b then takeKey s d slot pt else adminDone s d 0x86 0

def keyLoad (s : State) (d : Desc) (buf : DmaRead) : State :=
  admin s d 0x20 (fun s =>
    let wrap := bitsOf (aArg0 d) 18 16
    if wrap ≠ 7 && (keyOf s (256 + wrap)).isNone then adminDone s d 0x88 0
    else if keyInUse s (aArg0 d % 512) then adminDone s d 0x87 0
    else withBuffer s d buf (fun b s => loadKey s d b))

/-- KEY_LOAD (R97) -/
def execKeyLoad (d : Desc) (buf : DmaRead) (s : State) : Host.Outcome State Fault Refusal := .next (keyLoad s d buf)

def keyClear (s : State) (d : Desc) : State :=
  admin s d 0x21 (fun s =>
    if keyInUse s (aArg0 d) then adminDone s d 0x87 0 else adminDone (clearKey s (aArg0 d)) d 0 0)

/-- KEY_CLEAR (R98) -/
def execKeyClear (d : Desc) (s : State) : Host.Outcome State Fault Refusal := .next (keyClear s d)

/-! ### TENANT_SET (R93, R94, R351) -/

/-- The fields of the buffer (Table 5-2). -/
def tsTenant (b : List Byte) : Nat := leAt b 0 1
def tsEnabled (b : List Byte) : Bool := bitAt (leAt b 1 1) 0

/-- The record that a buffer asks for; quarantine is not its to change. -/
def tsRecord (b : List Byte) (old : TenantRec) : TenantRec :=
  { old with enabled := tsEnabled b, fixedSlot := bitAt (leAt b 1 1) 1, classes := BitVec.ofNat 4 (leAt b 2 1)
             streamQuota := leAt b 4 4, aQuota := leAt b 8 4, maxFrames := leAt b 12 4, disabling := false }

/-- Step 2 of R351. -/
def tsBad (s : State) (b : List Byte) : Bool :=
  let t := tsTenant b
  bitsOf (leAt b 1 1) 7 2 != 0 || bitsOf (leAt b 2 1) 7 4 != 0 || leAt b 3 1 != 0 || !zeroAt b 16 48 ||
    decide (65536 < leAt b 4 4) || decide (leAt b 4 4 < leAt b 8 4) || leAt b 12 4 == 0 || decide (1048576 < leAt b 12 4) ||
    (tsEnabled b && t != 0 && (decide (s.host.vfNum < t) || holdReads s))

/-- The disable that a buffer asks for waits for a boundary. -/
def tsWaits (s : State) (b : List Byte) : Bool := (tenOf s (tsTenant b)).enabled && !tsEnabled b && timeRuns s

/-- The record as it stands from the ADMIN_DONE on (R94): a disable that waits leaves the tenant enabled. -/
def tsNow (s : State) (b : List Byte) : TenantRec :=
  let r := tsRecord b (tenOf s (tsTenant b))
  if tsWaits s b then { r with enabled := true, disabling := true } else r

/-- The charge of the tenant under the new record (R93): a disable at once closes its streams. -/
def tsCharge (s : State) (b : List Byte) : Nat :=
  let t := tsTenant b
  if (tenOf s t).enabled && !tsEnabled b && !timeRuns s then 0 else chargeOf (tsNow s b) (openCount s t)

/-- The charges of all tenants with the tenant's own replaced. -/
def tsSum (s : State) (b : List Byte) : Nat :=
  (List.range 256).foldl (fun a t => a + (if t = tsTenant b then tsCharge s b else chargeOf (tenOf s t) (openCount s t))) 0

/-- The record as it stands before the ADMIN_DONE: MAX_FRAMES for the next intake, FIXED_SLOT for the next commit, and a disable, which wait for their own time (R94). -/
def tsSoon (s : State) (b : List Byte) : TenantRec :=
  let r := tsNow s b
  let old := tenOf s (tsTenant b)
  { old with maxFrames := r.maxFrames, fixedSlot := r.fixedSlot, disabling := r.disabling }

/-- A TENANT_SET accepted: a disable at once closes the tenant's streams; quotas, classes and an enable take effect at the ADMIN_DONE (R94). -/
def setTenant (s : State) (d : Desc) (b : List Byte) : State :=
  let t := tsTenant b
  let r := tsNow s b
  let s := setTen s t (tsSoon s b)
  let s := if (tenOf s t).enabled && !r.enabled then disableTenant s t else s
  adminDoneWith s d (.tenant t r)

def tenantSet (s : State) (d : Desc) (buf : DmaRead) : State :=
  admin s d 0x22 (fun s => withBuffer s d buf (fun b s =>
    if tsBad s b then adminDone s d 0x8A 0
    else if 65536 < tsSum s b then adminDone s d 0x89 0
    else setTenant s d b))

/-- TENANT_SET (R351) -/
def execTenantSet (d : Desc) (buf : DmaRead) (s : State) : Host.Outcome State Fault Refusal := .next (tenantSet s d buf)

/-! ### TENANT_CONTAIN (R106) -/

/-- An action of TENANT_CONTAIN waits for the next boundary, or takes effect at once while none runs. -/
def contain (s : State) (d : Desc) (action : Nat) : State :=
  adminAct s d 0x23 (bitsOf (aArg0 d) 9 8 == action) (fun s =>
    let s := adminWait s d (.contain (aArg0 d % 256) action)
    if timeRuns s then s else applyContain s (s.tick.index + 1))

/-- TENANT_QUARANTINE (R106) -/
def execTenantQuarantine (d : Desc) (s : State) : Host.Outcome State Fault Refusal := .next (contain s d 0)

/-- TENANT_RELEASE (R106) -/
def execTenantRelease (d : Desc) (s : State) : Host.Outcome State Fault Refusal := .next (contain s d 1)

/-- TENANT_EVICT (R106) -/
def execTenantEvict (d : Desc) (s : State) : Host.Outcome State Fault Refusal := .next (contain s d 2)

/-! ### Knots (R180, R188) -/

/-- A plan will be active at boundary n: the one that runs, or one armed for n or before. -/
def planComes (s : State) (n : Nat) : Bool := (runningPlan s).isSome || (s.core.armed && decide (s.core.commitN ≤ n))

/-- Steps 2 to 4 of R180. -/
def hostSignal (s : State) (d : Desc) : State :=
  let k := bitsOf (aArg0 d) 5 0
  let a := bitsOf (aArg0 d) 31 16
  let n := aArg1 d
  if !(if n = 0 then (runningPlan s).isSome else planComes s n) then adminDone s d 0xC0 0
  else if n ≠ 0 && (n < s.tick.index + 1 || s.tick.index + 8 < n) then adminDone s d 0xC1 0
  else if n ≠ 0 then adminWait s d (.signalAt k a n)
  else if hostSignalBad s k a then adminDone s d 0xC2 0
  else adminDone (applyAmount s k a 16) d 0 0

def knotSignal (s : State) (d : Desc) : State := admin s d 0x30 (fun s => hostSignal s d)

/-- KNOT_SIGNAL (R180) -/
def execKnotSignal (d : Desc) (s : State) : Host.Outcome State Fault Refusal := .next (knotSignal s d)

/-- Bytes written to the buffer of an admin descriptor, `seen` marking what has now been read, and its completion; DMA_ERROR where the write meets a translation fault, and nothing is then marked read (Table 4-12; log 86). -/
def fillBuffer (s : State) (o : OutDesc) (seen : State → State) (bytes : List Byte) (detail : Nat) : State :=
  if o.fault then adminDone s o.d 4 0
  else adminDone (emit (seen s) (.buffer (aAddr o.d) (padTo (aLen o.d) bytes))) o.d 0 detail

/-- The saved dump read: it may be replaced, and the count of lost dumps is clear (R188, Table 9-3). -/
def dumpSeen (s : State) : State := { s with knot := { s.knot with dumpUnread := false, dumpsLost := 0 } }

/-- The saved dump, then read, or a live one with CAUSE 0. -/
def dumpOut (s : State) (o : OutDesc) : State :=
  if aArg0 o.d = 1 then fillBuffer s o (fun s => s) (knotDump s 0 0 (stampTick s) s.link.chipId) 0
  else if s.knot.dumpUnread then fillBuffer s o dumpSeen (s.knot.dump.getD []) 0
  else adminDone s o.d 0xC3 0

def knotDumpDesc (s : State) (o : OutDesc) : State := admin s o.d 0x31 (fun s => dumpOut s o)

/-- KNOT_DUMP (R188) -/
def execKnotDump (d : OutDesc) (s : State) : Host.Outcome State Fault Refusal := .next (knotDumpDesc s d)

/-! ### POWER_POLICY (R304) -/

def ppPolicy (b : List Byte) : Policy := { baseW := leAt b 0 2, linkMin := leAt b 2 1, linkIdle := leAt b 4 2 }

/-- Step 2 of R304 (Table 15-2). -/
def ppBad (b : List Byte) : Bool :=
  let p := ppPolicy b
  decide (p.baseW < 50) || decide (300 < p.baseW) || p.linkMin == 0 || decide (8 < p.linkMin) || p.linkIdle == 0 ||
    leAt b 3 1 != 0 || !zeroAt b 6 58

/-- A plan, if there is one, passes R300 under a BASE_W. -/
def floorHolds (p : Option Plan) (baseW : Nat) : Bool :=
  match p with
  | some p => floorOk p baseW
  | none => true

/-- Step 3 of R304: the active and the armed plan. -/
def ppFloorOk (s : State) (baseW : Nat) : Bool :=
  floorHolds s.core.active baseW && (!s.core.armed || floorHolds s.core.standby baseW)

def askPolicy (s : State) (d : Desc) (p : Policy) : State :=
  let s := adminWait { s with pwr := { s.pwr with policyNext := some p } } d .policy
  if timeRuns s then s else applyPolicy s

def powerPolicy (s : State) (d : Desc) (buf : DmaRead) : State :=
  admin s d 0x50 (fun s => withBuffer s d buf (fun b s =>
    if ppBad b then adminDone s d 0xC0 0
    else if !ppFloorOk s (leAt b 0 2) then adminDone s d 0xC1 0
    else askPolicy s d (ppPolicy b)))

/-- POWER_POLICY (R304) -/
def execPowerPolicy (d : Desc) (buf : DmaRead) (s : State) : Host.Outcome State Fault Refusal := .next (powerPolicy s d buf)

/-! ### Debug (R338) -/

/-- Steps 2 to 4 of R338 on a token: 0 or the status. -/
def tokenCheck (s : State) (b : List Byte) : Nat :=
  if b.take 4 ≠ [0x53, 0x4B, 0x44, 0x54] || !zeroAt b 5 11 || !zeroAt b 32 32 || leAt b 16 8 ≠ s.fuse.serial ||
      leAt b 24 8 ≠ s.err.challenge then 0xC0
  else if !signKeyOk s (leAt b 4 1) (bytesAt b 64 96) then 0xC1
  else if !ecdsaVerify (bytesAt b 64 96) (bytesAt b 160 96) (sha384 (b.take 160)) then 0xC2
  else 0

/-- An attempt to unlock: judged against the challenge that stands, and a new one drawn either way. -/
def tryUnlock (s : State) (d : Desc) (b : List Byte) : State :=
  let st := tokenCheck s b
  let s := newChallenge s
  adminDone (if st = 0 then { s with err := { s.err with unlocked := true } } else s) d st 0

def debugUnlock (s : State) (d : Desc) (buf : DmaRead) : State :=
  adminAct s d 0x70 (aArg0 d == 1) (fun s =>
    match buf with
    | .ok bytes => withBuffer s d (.ok bytes) (fun b s => tryUnlock s d b)
    | r => withBuffer (if (freeReadTag s.host).isSome then newChallenge s else s) d r (fun _ s => s))

/-- DEBUG_UNLOCK (R338) -/
def execDebugUnlock (d : Desc) (buf : DmaRead) (s : State) : Host.Outcome State Fault Refusal := .next (debugUnlock s d buf)

/-- ACTION 0: debug locks at once, and DVDBG is BYPASS again (R47). -/
def debugLock (s : State) (d : Desc) : State :=
  adminAct s d 0x70 (aArg0 d == 0) (fun s =>
    adminDone { s with err := { s.err with unlocked := false }, dbg := { s.dbg with dvdbg := false, ir := if s.dbg.ir = .dvdbg then .bypass else s.dbg.ir } } d 0 0)

/-- DEBUG_LOCK (R338) -/
def execDebugLock (d : Desc) (s : State) : Host.Outcome State Fault Refusal := .next (debugLock s d)

/-! ### LOG_READ (R336) -/

/-- Where a read from FROM begins: FROM, or the oldest held when FROM is older (serial arithmetic, R334). -/
def readFrom (frm oldest : Nat) : Nat :=
  let ahead := (frm + 2 ^ 32 - oldest % 2 ^ 32) % 2 ^ 32
  if ahead < 2 ^ 31 then oldest + ahead else oldest

/-- The oldest log record held, by its full number. -/
def logOldest (s : State) : Nat := s.err.nextSeq - s.err.log.length

/-- The oldest recovery record that flash still holds. -/
def recOldest (s : State) : Nat :=
  if s.stw.recCount ≤ recLogCap then 0 else s.stw.recCount - (recLogCap - 128 + ((s.stw.recCount - 1) % 128 + 1))

/-- A recovery record as flash holds it. -/
def recLogBytes (s : State) (seq : Nat) : List Byte := spiBytes s (recLogBase + 32 * (seq % recLogCap)) 32

def StreamState.code : StreamState → Nat
  | .closed => 0
  | .opened => 1
  | .bound => 2
  | .paused => 3
  | .closing => 4

/-- Table 6-3 of stream i. -/
def streamBytes (s : State) (i : Nat) : List Byte :=
  let x := streamOf s i
  leBytes 1 (x.st.code + x.cls * 8 + b2n x.eouSeen * 32) ++ leBytes 1 x.tenant ++ leBytes 2 x.nextSeq ++ leBytes 4 x.model ++
    leBytes 1 x.pending.length ++ leBytes 1 (min 255 (((x.pending.head?).map (·.age)).getD 0)) ++ List.replicate 6 0 ++
    leBytes 8 x.openTick ++ leBytes 8 x.stateAddr ++ leBytes 4 x.stateLen ++ leBytes 4 x.frames ++ leBytes 8 x.bindTick ++
    List.replicate 16 0

/-- What a read of a source gives: the bytes, the records written, the next FROM. -/
structure LogOut where
  bytes : List Byte
  units : Nat
  next : Nat
  deriving DecidableEq, Repr

/-- Source 0: whole log records. -/
def readEvents (s : State) (frm len : Nat) : LogOut :=
  let lo := readFrom frm (logOldest s)
  let rs := (s.err.log.drop (lo - logOldest s)).take (len / 64)
  { bytes := rs.flatMap logBytes, units := rs.length, next := (lo + rs.length) % 2 ^ 32 }

/-- Source 1: recovery records. -/
def readRecovery (s : State) (frm len : Nat) : LogOut :=
  let lo := readFrom frm (recOldest s)
  let n := min (len / 32) (s.stw.recCount - lo)
  { bytes := (rangeFrom lo n).flatMap (recLogBytes s), units := n, next := (lo + n) % 2 ^ 32 }

/-- Source 3: stream table entries. -/
def readStreams (s : State) (frm len : Nat) : LogOut :=
  let lo := frm % 65536
  let n := min (len / 64) (65536 - lo)
  { bytes := (rangeFrom lo n).flatMap (streamBytes s), units := n, next := lo + n }

/-- The log records that a read returned are marked so, and ERR.LOG_READ is the highest SEQ returned, kept as one more (R332, R336, log 48). -/
def advanceLogRead (o : LogOut) (frm : Nat) (s : State) : State :=
  let lo := readFrom frm (logOldest s)
  if o.units = 0 then s
  else { s with err := { s.err with
    logRead := max s.err.logRead (lo + o.units)
    log := s.err.log.map (fun r => if decide (lo ≤ r.seq) && decide (r.seq < lo + o.units) then { r with returned := true } else r) } }

/-- The post-mortem summary, now read. -/
def summaryRead (s : State) : State := { s with err := { s.err with pmUnread := false } }

/-- What is found goes to the buffer, zero-filled, with the counts in DETAIL. -/
def logOut (s : State) (d : OutDesc) (seen : State → State) (o : LogOut) : State :=
  fillBuffer s d seen o.bytes (o.units % 2 ^ 32 + o.next % 2 ^ 32 * 2 ^ 32)

/-- Source 2. Its DETAIL counts no records: a free value (log 48). -/
def readSummary (s : State) (d : OutDesc) : State :=
  let p := drawRandom s (2 ^ 64)
  fillBuffer p.2 d summaryRead (s.err.summary.getD []) p.1

/-- Steps 2 and 3 of R336 and the read. -/
def logRead (s : State) (o : OutDesc) : State :=
  admin s o.d 0x72 (fun s =>
    let frm := aArg0 o.d
    let source := aArg1 o.d
    let n := aLen o.d
    if source = 0 then logOut s o (advanceLogRead (readEvents s frm n) frm) (readEvents s frm n)
    else if source = 1 then logOut s o (fun s => s) (readRecovery s frm n)
    else if source = 2 then (if s.err.pmUnread then readSummary s o else adminDone s o.d 0xC3 0)
    else if s.boot.hbmOk then logOut s o (fun s => s) (readStreams s frm n)
    else adminDone s o.d 0xC4 0)

/-- LOG_READ (R336) -/
def execLogRead (d : OutDesc) (s : State) : Host.Outcome State Fault Refusal := .next (logRead s d)

/-! ### SLICE_SET (R248) -/

def slCount (b : List Byte) : Nat := leAt b 0 2
def slPorts (b : List Byte) : List Nat := (List.range 8).filter (fun p => bitAt (leAt b 2 1) p)
def slChips (b : List Byte) : List Nat := wordsOf 2 (slCount b) (bytesAt b 8 (2 * slCount b))

/-- Steps 1 to 3 of R248 on the buffer: 0 or the status. LEN follows from COUNT (Table 12-7; log 40). -/
def sliceCheck (s : State) (len : Nat) (b : List Byte) : Nat :=
  let n := slCount b
  let cs := slChips b
  if n = 0 || 2047 < n then 0xC0
  else if len ≠ 64 * ceilDiv (8 + 2 * n) 64 then 1
  else if (slPorts b).isEmpty || !zeroAt b 3 5 || !zeroAt b (8 + 2 * n) (len - 8 - 2 * n) || cs.any (fun c => decide (2048 ≤ c)) ||
      (s.link.valid && cs.contains s.link.chipId) || !decide cs.Nodup then 0xC0
  else if (slPorts b).any (fun p => !isActive s p) then 0xC1
  else 0

/-- The pairs to probe, in list order and then port order. -/
def slProbes (b : List Byte) : List Probe :=
  (slChips b).flatMap (fun c => (slPorts b).map (fun p => { chip := c, port := p, tries := 1, answer := none, unreachable := false }))

def beginSlice (s : State) (d : Desc) (b : List Byte) : State :=
  let qs := slProbes b
  qs.foldl sendProbe (adminWait { s with link := { s.link with probes := qs } } d .slice)

def sliceSet (s : State) (d : Desc) (buf : DmaRead) : State :=
  admin s d 0x80 (fun s => withBuffer s d buf (fun b s =>
    let st := sliceCheck s (aLen d) b
    if st = 0 then beginSlice s d b else adminDone s d st 0))

/-- SLICE_SET (R248) -/
def execSliceSet (d : Desc) (buf : DmaRead) (s : State) : Host.Outcome State Fault Refusal := .next (sliceSet s d buf)

end Sys2Proof.Machine
end

