-- ==== Sys2Proof/Machine/Firmware.lean ====
section
/-! DEFINITION. Field update of the steward: the engine, its two paths, activation, recovery (16: R308, R315 to R323). -/

namespace Sys2Proof.Machine

/-! ### The engine (R315, R316, Table 16-7) -/

/-- Provisioning: recovery mode entered at a cold reset with BOOT_SRC 0b10, whose transfer writes both slots (R321). -/
def provisioning (s : State) : Bool := s.boot.phase == .recovery && bootSrc s == 2 && s.boot.cold

def fwTargets (s : State) : List Nat := if provisioning s then [0, 1] else [s.stw.target]

/-- The slot that recovery mode writes (R320). -/
def recoveryTarget (s : State) : Nat :=
  if slotCheck s 0 (fun _ => true) ≠ 0 then 0
  else if slotCheck s 1 (fun _ => true) ≠ 0 then 1
  else targetSlot s

/-- The slot of a new transfer. -/
def newTarget (s : State) : Nat := if s.boot.phase = .recovery then recoveryTarget s else targetSlot s

/-- A path other than the one named is transferring. -/
def fwBusy (s : State) (service : Bool) : Bool :=
  if service then s.stw.fw == .receiving && !s.stw.pathService
  else (s.stw.fw == .receiving && s.stw.pathService) || (s.stw.pldm != .idle && s.stw.pldm != .complete)

/-- R316: 0, FW_TRIAL, FW_PENDING or FW_BUSY. Recovery mode has neither a trial nor work that waits for one. -/
def fwRefusal (s : State) (service : Bool) : Nat :=
  if s.boot.phase = .recovery then 0
  else if isTrial s then 0xC3
  else if (bootRec s).pending ≠ 0xFF then 0xC4
  else if fwBusy s service then 0xC2
  else 0

/-- The transfer ends without an image: the engine returns to its previous state. -/
def endTransfer (s : State) : State :=
  { s with stw := { s.stw with fw := if s.stw.fw = .receiving then s.stw.prev else s.stw.fw, nextOffset := 0, header := [] } }

/-- A transfer in progress is given up: a transfer-end record with no check code (R322; log 101), and the end. -/
def dropTransfer (s : State) : State :=
  endTransfer (if s.stw.fw = .receiving then recLogAppend s 3 s.stw.target 0 (fwVersion s.stw.header) else s)

/-- FW_TRANSFER_FAIL, a transfer-end record, and the end. The code is a check code, 0xFF for timeout or 0xFE for media. -/
def failTransfer (s : State) (service : Bool) (code : Nat) : State :=
  let s := recLogAppend s 3 s.stw.target (if code < 8 then code else 0) (fwVersion s.stw.header)
  endTransfer (postFirmware s (fwEvent 0x0905 (b2n service) code 0))

/-- A check code of R308 found by the engine. -/
def failCheck (s : State) (service : Bool) (code : Nat) : State :=
  failTransfer { s with stw := { s.stw with lastCheck := code } } service code

/-- A header that passed steps 1 to 6 is kept, and the engine receives. -/
def beginTransfer (s : State) (service : Bool) (header : List Byte) : State :=
  { s with stw := { s.stw with prev := if s.stw.fw = .receiving then s.stw.prev else s.stw.fw, fw := .receiving
                               pathService := service, nextOffset := 0, header := header } }

/-- 64 KiB units of a slot erased ahead of image bytes a to b - 1. -/
def eraseAhead (base a b : Nat) (s : State) : State :=
  (rangeFrom (ceilDiv a 65536) (ceilDiv b 65536 - ceilDiv a 65536)).foldl (fun s k => spiErase s (base + 65536 * k) 65536) s

/-- Image bytes from offset a on programmed in a slot; the header waits. -/
def programImage (a : Nat) (bytes : List Byte) (s : State) (slot : Nat) : State :=
  spiWrite s (fwSlotBase slot + max a 4096) (bytes.drop (4096 - a))

/-- The header sector programmed, which makes the slot whole. -/
def programHeader (s : State) (slot : Nat) : State := spiWrite s (fwSlotBase slot) (padTo 4096 s.stw.header)

/-- What feeding bytes came to. -/
inductive Fed where
  | more
  | staged
  | badDigest
  | media
  deriving DecidableEq, Repr

/-- Step 7 and the header: the image is staged, or its digest is wrong. -/
def finishTransfer (s : State) (service : Bool) : Fed × State :=
  let h := s.stw.header
  if (fwTargets s).all (fun t => fwDigestsOk s (fwSlotBase t) h (fun _ => true)) then
    let s := (fwTargets s).foldl programHeader s
    let s := recLogAppend (postFirmware s (fwEvent 0x0901 s.stw.target 0 (fwVersion h))) 3 s.stw.target 0 (fwVersion h)
    (.staged, { s with stw := { s.stw with fw := .staged, nextOffset := 0, header := [] } })
  else (.badDigest, failCheck s service 7)

/-- Image bytes at offset a taken by the engine. -/
def feed (s : State) (service : Bool) (a : Nat) (bytes : List Byte) (flashOk : Bool) : Fed × State :=
  let b := a + bytes.length
  let s := (fwTargets s).foldl (fun s t => eraseAhead (fwSlotBase t) a b s) s
  if !flashOk then (.media, failTransfer s service 0xFE)
  else
    let s := (fwTargets s).foldl (programImage a bytes) s
    let s := { s with stw := { s.stw with nextOffset := b } }
    if b < fwImageLen s.stw.header then (.more, s) else finishTransfer s service

/-! ### FW_BLOCK (R317) -/

def fbOffset (d : Desc) : Nat := aArg0 d

/-- Step 3 of R317, for a block that goes on with a transfer. -/
def offsetBad (s : State) (d : Desc) : Bool :=
  fbOffset d ≠ 0 && (s.stw.fw ≠ .receiving || fbOffset d ≠ s.stw.nextOffset || decide (fwImageLen s.stw.header < fbOffset d + aLen d))

/-- The block's completion. -/
def blockDone (d : Desc) (r : Fed × State) : State :=
  match r.1 with
  | .more => adminDone r.2 d 0 0
  | .staged => adminDone r.2 d 0 0
  | .badDigest => adminDone r.2 d 0xC0 7
  | .media => adminDone r.2 d 0xC6 0

/-- A block of OFFSET 0: any transfer in progress is abandoned and a new one starts. IMAGE_LEN is the new header's, judged first (step 3). -/
def firstBlock (s : State) (d : Desc) (bytes : List Byte) (flashOk : Bool) : State :=
  let h := bytes.take 4096
  if fwImageLen h < bytes.length then adminDone s d 0xC1 0
  else
    let s := dropTransfer s
    let s := { s with stw := { s.stw with target := newTarget s, header := h } }
    let c := fwCheckHeader s h true
    if c ≠ 0 then adminDone (failCheck s false c) d 0xC0 c
    else blockDone d (feed (beginTransfer s false h) false 0 bytes flashOk)

def fwBlock (s : State) (d : Desc) (buf : DmaRead) (flashOk : Bool) : State :=
  admin s d 0x60 (fun s =>
    let st := fwRefusal s false
    if st ≠ 0 then adminDone s d st 0
    else if offsetBad s d then adminDone s d 0xC1 0
    else withBuffer s d buf (fun bytes s =>
      if fbOffset d = 0 then firstBlock s d bytes flashOk else blockDone d (feed s false (fbOffset d) bytes flashOk)))

/-- FW_BLOCK (R317) -/
def execFwBlock (d : Desc) (buf : DmaRead) (flashOk : Bool) (s : State) : Host.Outcome State Fault Refusal :=
  .next (fwBlock s d buf flashOk)

/-- 120 s without data (R316). -/
def transferTimeout (s : State) : State :=
  if s.stw.fw = .receiving then
    let s := failTransfer s s.stw.pathService 0xFF
    { s with stw := { s.stw with pldm := .idle } }
  else s

/-- TRANSFER_TIMEOUT (R316) -/
def execTransferTimeout (s : State) : Host.Outcome State Fault Refusal := .next (transferTimeout s)

/-! ### FW_ACTIVATE (R319) -/

/-- What activation asks for: 0, FW_TRIAL or FW_NONE. -/
def activateStatus (s : State) : Nat :=
  let t := targetSlot s
  if isTrial s then 0xC3
  else if !slotWhole s t || decide (fwSvn (fwHeaderOf s t) < s.fuse.svnBlown) then 0xC5
  else 0

/-- A record with PENDING a slot, its marks cleared, and an activation record. -/
def setPending (s : State) (slot : Nat) : State :=
  let r := bootRec s
  recLogAppend (recWrite s (r.primary % 2) slot (r.cfgCopy % 2) (marksWithout r.marks slot)) 4 slot 0 (fwVersion (fwHeaderOf s slot))

def activate01 (s : State) : State :=
  let s := setPending s (targetSlot s)
  { s with stw := { s.stw with fw := .pending } }

/-- A warm reset asked for, unless one is. -/
def activateWarm (s : State) (flush : Bool) : State := if s.boot.warm.isSome then s else askWarm s .activate flush

def fwActivate (s : State) (d : Desc) (now : Bool) : State :=
  adminAct s d 0x61 (aArg0 d == (if now then 0 else 1)) (fun s =>
    let st := activateStatus s
    if st ≠ 0 then adminDone s d st 0
    else
      let s := adminDone (activate01 s) d 0 0
      if now then activateWarm s true else s)

/-- FW_ACTIVATE_NOW (R319) -/
def execFwActivateNow (d : Desc) (s : State) : Host.Outcome State Fault Refusal := .next (fwActivate s d true)

/-- FW_ACTIVATE_AT_RESET (R319) -/
def execFwActivateAtReset (d : Desc) (s : State) : Host.Outcome State Fault Refusal := .next (fwActivate s d false)

/-- ACTION 0b10: a transfer in progress ends; PENDING is cleared. -/
def discard (s : State) : State :=
  let s := if s.stw.fw = .receiving then dropTransfer s else s
  let s := { s with stw := { s.stw with pldm := .idle } }
  let r := bootRec s
  if r.pending = 0xFF then s
  else
    let s := recWrite s (r.primary % 2) 0xFF (r.cfgCopy % 2) r.marks
    { s with stw := { s.stw with fw := restingState s } }

def fwDiscard (s : State) (d : Desc) : State :=
  adminAct s d 0x61 (aArg0 d == 2) (fun s => adminDone (discard s) d 0 0)

/-- FW_DISCARD (R319) -/
def execFwDiscard (d : Desc) (s : State) : Host.Outcome State Fault Refusal := .next (fwDiscard s d)

/-! ### PLDM for Firmware Update (R318, R320, R321) -/

/-- A message on the service port (`Out.service`). -/
def svc (s : State) (what code : Nat) (data : List Byte) : State := emit s (.service what code data)

/-- A PLDM firmware answer with a completion code (DSP0267; PRESUMED, log 49). -/
def pldmAnswer (s : State) (code : Nat) (data : List Byte) : State := svc s 2 code data

def setPldm (s : State) (x : PldmState) : State := { s with stw := { s.stw with pldm := x } }

/-- PLDM firmware commands are answered by the firmware, and by the ROM in recovery mode. -/
def fwServed (s : State) (body : State → State) : State :=
  if s.boot.phase = .firmware || s.boot.phase = .recovery then body s else s

/-- An answer to a command that this update state does not take: NOT_IN_UPDATE_MODE or INVALID_STATE_FOR_COMMAND. -/
def pldmRefuse (s : State) : State := pldmAnswer s (if s.stw.pldm = .idle then 0x80 else 0x84) []

/-- QUERY_DEVICE_IDENTIFIERS (R318) -/
def execQueryDeviceIdentifiers (s : State) : Host.Outcome State Fault Refusal :=
  .next (fwServed s (fun s => pldmAnswer s 0 (leBytes 8 s.fuse.serial)))

/-- The one component: classification Firmware and identifier 0x0001 (Table 16-6; the number of the classification is DSP0267's, PRESUMED, log 49). -/
def firmwareComponent : FwComponent := { classification := 0x000A, identifier := 1 }

/-- The component, its running version and the version that is pending, 0 for none. -/
def fwParameters (s : State) : List Byte :=
  let r := bootRec s
  leBytes 2 firmwareComponent.classification ++ leBytes 2 firmwareComponent.identifier ++
    leBytes 4 (if s.boot.phase = .firmware then fwVersion (fwHeaderOf s s.boot.slot) else 0) ++
    leBytes 4 (if r.pending = 0xFF then 0 else slotVersion s (r.pending % 2))

/-- GET_FIRMWARE_PARAMETERS (R318) -/
def execGetFirmwareParameters (s : State) : Host.Outcome State Fault Refusal :=
  .next (fwServed s (fun s => pldmAnswer s 0 (fwParameters s)))

/-- ALREADY_IN_UPDATE_MODE while either path updates; UNABLE_TO_INITIATE_UPDATE in a trial or with PENDING set. -/
def requestUpdate (s : State) : State :=
  fwServed s (fun s =>
    if s.stw.pldm ≠ .idle || fwBusy s true then pldmAnswer s 0x81 []
    else if fwRefusal s true ≠ 0 then pldmAnswer s 0x8A []
    else pldmAnswer (setPldm s .learning) 0 [])

/-- REQUEST_UPDATE (R318) -/
def execRequestUpdate (s : State) : Host.Outcome State Fault Refusal := .next (requestUpdate s)

/-- The one component can be updated; any other is not supported. -/
def componentData (c : FwComponent) : List Byte := if c = firmwareComponent then [0, 0] else [1, 6]

def passComponentTable (s : State) (c : FwComponent) : State :=
  fwServed s (fun s =>
    if s.stw.pldm ≠ .learning then pldmRefuse s
    else pldmAnswer (if c = firmwareComponent then setPldm s .ready else s) 0 (componentData c))

/-- PASS_COMPONENT_TABLE (R318) -/
def execPassComponentTable (component : FwComponent) (s : State) : Host.Outcome State Fault Refusal := .next (passComponentTable s component)

/-- RequestFirmwareData for the next 1,024 bytes. -/
def askData (s : State) : State := svc s 9 0 (leBytes 4 s.stw.nextOffset ++ leBytes 4 1024)

/-- UpdateComponent starts a transfer, which R316 refuses in a trial and while PENDING is set: a prerequisite is not met (PRESUMED, log 49). -/
def updateComponent (s : State) (c : FwComponent) : State :=
  fwServed s (fun s =>
    if s.stw.pldm ≠ .ready then pldmRefuse s
    else if c ≠ firmwareComponent then pldmAnswer s 0 (componentData c)
    else if fwRefusal s true ≠ 0 then pldmAnswer s 0 [1, 5]
    else
      let s := { s with stw := { s.stw with pldm := .download, header := [], nextOffset := 0, target := newTarget s } }
      askData (pldmAnswer s 0 (componentData c)))

/-- UPDATE_COMPONENT (R318) -/
def execUpdateComponent (component : FwComponent) (s : State) : Host.Outcome State Fault Refusal := .next (updateComponent s component)

/-- The provisioned flash: PRIMARY A, PENDING none, CFG_COPY 0, and a warm reset (R321). -/
def provisioned (s : State) : State := activateWarm (recWrite s 0 0xFF 0 marksClear) false

/-- What the device tells the update agent, and its next state. -/
def dataDone (r : Fed × State) : State :=
  let s := r.2
  match r.1 with
  | .more => askData s
  | .staged =>
    let s := setPldm (svc (svc (svc s 3 0 []) 4 0 []) 5 0 []) .complete
    if provisioning s then provisioned s else s
  | .badDigest => setPldm (svc (svc s 3 0 []) 4 0x97 []) .ready
  | .media => setPldm (svc s 5 0xB0 []) .ready

/-- Header bytes collected; once whole they are checked and the transfer begins, unless PENDING has been set meanwhile (R316): the device aborts it (PRESUMED, log 49). -/
def headerData (s : State) (bytes : List Byte) (flashOk : Bool) : State :=
  let h := s.stw.header ++ bytes
  let s := { s with stw := { s.stw with header := h, nextOffset := h.length } }
  if h.length < 4096 then askData s
  else if fwRefusal s true ≠ 0 then setPldm (svc (endTransfer s) 3 0x0B []) .ready
  else
    let c := fwCheckHeader s h true
    if c ≠ 0 then setPldm (svc (failCheck s true c) 3 (0x70 + c) []) .ready
    else dataDone (feed (beginTransfer s true h) true 0 h flashOk)

def firmwareData (s : State) (bytes : List Byte) (flashOk : Bool) : State :=
  fwServed s (fun s =>
    if s.stw.pldm ≠ .download then s
    else if s.stw.nextOffset < 4096 then headerData s (padTo 1024 bytes) flashOk
    else dataDone (feed s true s.stw.nextOffset (padTo 1024 bytes) flashOk))

/-- REQUEST_FIRMWARE_DATA (R318) -/
def execRequestFirmwareData (bytes : List Byte) (flashOk : Bool) (s : State) : Host.Outcome State Fault Refusal :=
  .next (firmwareData s bytes flashOk)

/-- Recovery mode sets PENDING to the slot it wrote and starts a warm reset at once (R320). -/
def recoveryActivate (s : State) : State := activateWarm (pldmAnswer (setPldm (setPending s s.stw.target) .idle) 0 []) false

/-- ActivateFirmware as ACTION 0b00 when self-contained, else as ACTION 0b01; INCOMPLETE_UPDATE where that would be refused. -/
def activateFirmware (s : State) (selfContained : Bool) : State :=
  fwServed s (fun s =>
    if s.stw.pldm ≠ .complete then pldmRefuse s
    else if s.boot.phase = .recovery then recoveryActivate s
    else if activateStatus s ≠ 0 then pldmAnswer s 0x85 []
    else
      let s := pldmAnswer (setPldm (activate01 s) .idle) 0 []
      if selfContained then activateWarm s true else s)

/-- ACTIVATE_FIRMWARE (R318) -/
def execActivateFirmware (selfContained : Bool) (s : State) : Host.Outcome State Fault Refusal := .next (activateFirmware s selfContained)

/-- The state codes of DSP0267: a finished component leaves the device ready for the next (PRESUMED, log 49). -/
def PldmState.code : PldmState → Nat
  | .idle => 0
  | .learning => 1
  | .ready => 2
  | .download => 3
  | .complete => 2

/-- GET_STATUS (R318) -/
def execGetStatus (s : State) : Host.Outcome State Fault Refusal :=
  .next (fwServed s (fun s => pldmAnswer s 0 (leBytes 1 s.stw.pldm.code)))

/-- A transfer of the service port given up. -/
def abandonService (s : State) : State := if s.stw.pldm = .download then dropTransfer s else s

def cancelComponent (s : State) : State :=
  fwServed s (fun s =>
    if s.stw.pldm ≠ .download then pldmRefuse s else pldmAnswer (setPldm (abandonService s) .ready) 0 [])

/-- CANCEL_UPDATE_COMPONENT (R318) -/
def execCancelUpdateComponent (s : State) : Host.Outcome State Fault Refusal := .next (cancelComponent s)

def cancelUpdate (s : State) : State :=
  fwServed s (fun s => if s.stw.pldm = .idle then pldmRefuse s else pldmAnswer (setPldm (abandonService s) .idle) 0 [])

/-- CANCEL_UPDATE (R318) -/
def execCancelUpdate (s : State) : Host.Outcome State Fault Refusal := .next (cancelUpdate s)

end Sys2Proof.Machine
end

