-- ==== Sys2Proof/Machine/Service.lean ====
section
/-! DEFINITION. The service port beyond field update: platform monitoring and control, MCTP Control, reads of logs and
fault records (15: R305, Table 15-3; 17: R337, R339, Table 17-9). -/

namespace Sys2Proof.Machine

/-! ### Platform monitoring and control (R305, Table 15-3) -/

/-- A platform monitoring command: the firmware answers it. -/
def platform (s : State) (body : State → State) : State := if s.boot.phase = .firmware then body s else s

/-- ERROR_INVALID_DATA, the PLDM completion code (DSP0240; PRESUMED, log 49). -/
def errorInvalidData : Nat := 2

/-- Whether a module cap lies in 350 to 760 W. -/
def capValid (watts : Nat) : Bool := decide (350 ≤ watts) && decide (watts ≤ 760)

def moduleCapSet (s : State) (watts : Nat) : State :=
  platform s (fun s =>
    if capValid watts then svc { s with pwr := { s.pwr with capNext := some watts } } 6 0 []
    else svc s 6 errorInvalidData [])

/-- MODULE_CAP_SET (R305): the new cap takes effect at the next boundary. -/
def execModuleCapSet (watts : Nat) (s : State) : Host.Outcome State Fault Refusal := .next (moduleCapSet s watts)

def brakeEffecterSet (s : State) (on : Bool) : State :=
  platform s (fun s => svc { s with pwr := { s.pwr with effecter := on } } 6 0 [])

/-- BRAKE_EFFECTER_SET (R305): the governor reads it at the next boundary (R302). -/
def execBrakeEffecterSet (on : Bool) (s : State) : Host.Outcome State Fault Refusal := .next (brakeEffecterSet s on)

/-- Module power averaged over the last tick in W; where it is no whole number, which neighbour is read is free (log 50). -/
def modulePower (s : State) : Nat × State :=
  let lo := 4 * s.pwr.eLast / s.tick.quarters
  if 4 * s.pwr.eLast % s.tick.quarters = 0 then (lo, s)
  else
    let r := drawRandom s 2
    (lo + r.1, r.2)

/-- The value of a sensor, in 32 bits. -/
def sensorValue (s : State) (k : SensorKind) : Nat × State :=
  match k with
  | .junctionTemperature => (signedBits 32 s.pin.tj, s)
  | .hbmTemperature => (signedBits 32 s.pin.thbm, s)
  | .modulePower => modulePower s
  | .tickEnergy => (s.pwr.eLast, s)
  | .thermalBand => (s.pwr.band, s)
  | .brakeState => (b2n s.pwr.brake, s)

def sensorRead (s : State) (k : SensorKind) : State :=
  platform s (fun s => svc (sensorValue s k).2 6 0 (leBytes 4 (sensorValue s k).1))

/-- SENSOR_READ (R305) -/
def execSensorRead (kind : SensorKind) (s : State) : Host.Outcome State Fault Refusal := .next (sensorRead s kind)

/-- The PDR repository: the component of TYPE 5 of the running image (Table 16-3), empty where it has none. -/
def pdrBytes (s : State) : List Byte :=
  match (fwComps (fwHeaderOf s s.boot.slot)).find? (fun c => c.kind == 5) with
  | some c => spiBytes s (fwSlotBase s.boot.slot + c.offset) c.len
  | none => []

/-- PDR_READ (R305) -/
def execPdrRead (s : State) : Host.Outcome State Fault Refusal := .next (platform s (fun s => svc s 6 0 (pdrBytes s)))

/-! ### PLDM Base (R337, Table 17-9) -/

/-- The terminus IDs that can be assigned: 1 to 254 (DSP0240; PRESUMED, log 49). -/
def tidValid (tid : Nat) : Bool := decide (1 ≤ tid) && decide (tid ≤ 254)

/-- An answer of n free bytes: the spec names the command and not its answer (log 50). -/
def freeAnswer (s : State) (what n : Nat) : State :=
  let r := drawRandom s (2 ^ (8 * n))
  svc r.2 what 0 (leBytes n r.1)

/-- The PLDM Base commands. The types supported are 0, Base, 2, Platform Monitoring and Control, and 5, Firmware Update. -/
def pldmBase (s : State) (c : PldmBase) : State :=
  platform s (fun s =>
    match c with
    | .setTid tid => if tidValid tid then svc { s with stw := { s.stw with tid := tid } } 10 0 [] else svc s 10 errorInvalidData []
    | .getTid => svc s 10 0 (leBytes 1 s.stw.tid)
    | .getVersion _ => freeAnswer s 10 4
    | .getTypes => svc s 10 0 (leBytes 8 0x25)
    | .getCommands _ => freeAnswer s 10 32)

/-! ### MCTP Control (R337, Table 17-9) -/

/-- MCTP is answered by the firmware, and by the ROM in recovery mode (R320). -/
def mctpServed (s : State) (body : State → State) : State := fwServed s body

/-- The endpoint IDs that can be assigned: 1 to 254 (DSP0236; PRESUMED, log 49). -/
def eidValid (eid : Nat) : Bool := decide (1 ≤ eid) && decide (eid ≤ 254)

def setEid (s : State) (eid : Nat) : State :=
  if eidValid eid then svc { s with stw := { s.stw with eid := eid } } 7 0 (leBytes 1 eid)
  else svc s 7 errorInvalidData []

/-- A message of type 0x00, or of type 0x01 for PLDM Base, whose row of the table it shares (log 49). -/
def mctpControl (s : State) (c : MctpCommand) : State :=
  match c with
  | .setEndpointId eid => mctpServed s (fun s => setEid s eid)
  | .getEndpointId => mctpServed s (fun s => svc s 7 0 (leBytes 1 s.stw.eid))
  | .getVersion => mctpServed s (fun s => freeAnswer s 7 4)
  | .getMessageTypes => mctpServed s (fun s => svc s 7 0 [0x00, 0x01, 0x7E])
  | .getUuid => mctpServed s (fun s => svc s 7 0 (leBytes 16 s.fuse.uuid))
  | .pldm c => pldmBase s c

/-- MCTP_CONTROL (R337) -/
def execMctpControl (c : MctpCommand) (s : State) : Host.Outcome State Fault Refusal := .next (mctpControl s c)

/-! ### Vendor-defined reads (R337, R339) -/

/-- The lengths that LOG_READ takes for sources 0 to 2 (17, "LOG_READ"). -/
def vendorLenOk (source len : Nat) : Bool :=
  len % 64 == 0 && decide (64 ≤ len) &&
    (if source = 0 then decide (len ≤ 262144) else if source = 1 then decide (len ≤ 2 ^ 20) else source == 2 && len == 17408)

/-- An answer as LOG_READ leaves it: the units written, the next FROM, the bytes zero-filled to the length, and what follows them. -/
def vendorOut (s : State) (o : LogOut) (len : Nat) (rest : List Byte) : State :=
  svc s 8 0 (leBytes 4 o.units ++ leBytes 4 o.next ++ padTo len o.bytes ++ rest)

/-- The stored chip-fault records and summary header (R339). -/
def storeBytes (s : State) : List Byte := s.err.store.flatMap logBytes ++ s.err.storeHeader

/-- The summary, with its free counts (log 48). -/
def vendorSummary (s : State) (len : Nat) : State :=
  let p := drawRandom s (2 ^ 64)
  vendorOut (summaryRead p.2) { bytes := s.err.summary.getD [], units := p.1 % 2 ^ 32, next := p.1 / 2 ^ 32 } len []

/-- Sources 0 to 2 as LOG_READ reads them; recovery mode serves source 1 alone (R320). A request that LOG_READ would refuse gets its status. -/
def vendorLogRead (s : State) (source frm len : Nat) : State :=
  mctpServed s (fun s =>
    if s.boot.phase = .recovery && source ≠ 1 then s
    else if !vendorLenOk source len then svc s 8 1 []
    else if source = 0 then
      let o := readEvents s (frm % 2 ^ 32) len
      vendorOut (advanceLogRead o (frm % 2 ^ 32) s) o len (storeBytes s)
    else if source = 1 then vendorOut s (readRecovery s (frm % 2 ^ 32) len) len []
    else if s.err.pmUnread then vendorSummary s len
    else svc s 8 0xC3 [])

/-- VENDOR_LOG_READ (R337) -/
def execVendorLogRead (source start len : Nat) (s : State) : Host.Outcome State Fault Refusal :=
  .next (vendorLogRead s source start len)

/-- The oldest unread chip-fault record, read and released under R43. -/
def faultRecordRead (s : State) : State :=
  mctpServed s (fun s =>
    match s.err.unread with
    | r :: t => svc { s with err := { s.err with unread := t } } 8 0 (logBytes r)
    | [] => svc s 8 0 [])

/-- FAULT_RECORD_READ (R337) -/
def execFaultRecordRead (s : State) : Host.Outcome State Fault Refusal := .next (faultRecordRead s)

end Sys2Proof.Machine
end

