-- ==== Sys2Proof/Machine/Scrub.lean ====
section
/-! DEFINITION. The patrol scrub of HBM and the pool (17: R326, R328, R329, Table 17-3). -/

namespace Sys2Proof.Machine

/-! ### HBM_CRITICAL and POOL_CRITICAL (Table 17-3) -/

/-- A chip-scope fault of kind 2 or 3: every queue halts at once, and the warm reset. The RING_STOP of the next boundary carries REASON 2 (log 51). -/
def criticalFault (s : State) (kind : Nat) : State := askFaultWarm (settleHalt (haltQueues (chipFault s kind) 2))

/-! ### What a unit belongs to (Tables 7-11, 14-1) -/

/-- The first 64-byte unit of the cache partition, which is the directory's first. -/
def cacheUnit (s : State) : Nat := (192 - s.lib.cacheGibInUse) * 2 ^ 24

/-- A unit of the stream table or of the directory. -/
def hbmCritical (s : State) (u : Nat) : Bool :=
  decide (u < 65536) || (decide (cacheUnit s ≤ u) && decide (u < cacheUnit s + 2 ^ 21))

/-- A unit of a cache page. -/
def hbmCached (s : State) (u : Nat) : Bool := decide (cacheUnit s + 2 ^ 21 ≤ u)

/-- A unit of the last 64 KiB of the plan area: knot state, handle queues, slot counts and tags. -/
def poolCritical (u : Nat) : Bool := decide (0x7FF0000 ≤ 64 * u)

/-! ### HBM (R328, R329) -/

/-- An uncorrectable line of a cache page: a clean page is read again from flash, a bad line of any other stays poisoned (R329). -/
def cacheUncorrectable (s : State) (x : CachePage) (line : Nat) : State :=
  if x.filling then s
  else if x.dirty || x.writing then
    { s with lib := { s.lib with cachePoison := insertNat (64 * x.page + line % 64) s.lib.cachePoison } }
  else if x.evicting then s
  else libProgress (modPage s x.page (fun y => { y with filling := true }))

/-- Which library page, if any, the cache page at a unit holds is not stated: a free choice (log 52). -/
def cacheHit (s : State) (u : Nat) : State :=
  let r := drawRandom s (max 1 (cachePageMax s))
  match s.lib.pages[r.1]? with
  | some x => cacheUncorrectable r.2 x u
  | none => r.2

/-- An uncorrectable unit of HBM: counted, marked, MEM_ERROR, and what its owner calls for. -/
def hbmUncorrectable (s : State) (u : Nat) : State :=
  let s := { s with mem := { s.mem with hbmPoison := insertNat u s.mem.hbmPoison }
                    err := { s.err with hbmUe := satAdd s.err.hbmUe 1 } }
  let s := post s 0 (memErrorEv 5 1 u (stampTick s))
  if hbmCritical s u then criticalFault s 2 else if hbmCached s u then cacheHit s u else s

def hbmScrub (s : State) (u : Nat) (r : EccResult) : State :=
  if !mainOn s || !s.boot.hbmOk || hbmEnd ≤ 64 * u then s
  else
    match r with
    | .clean => s
    | .corrected => { s with err := { s.err with hbmCe := satAdd s.err.hbmCe 1 } }
    | .uncorrectable => hbmUncorrectable s u

/-- HBM_PATROL_SCRUB (R328) -/
def execHbmPatrolScrub (unit : Nat) (r : EccResult) (s : State) : Host.Outcome State Fault Refusal := .next (hbmScrub s unit r)

/-! ### The pool (R328) -/

/-- An uncorrectable word of the pool: its 64-byte unit counted, marked and reported. An instruction in it faults at its next fetch (`issue`). -/
def poolUncorrectable (s : State) (u : Nat) : State :=
  let s := { s with mem := { s.mem with poolPoison := insertNat u s.mem.poolPoison }
                    err := { s.err with poolUe := satAdd s.err.poolUe 1 } }
  let s := post s 0 (memErrorEv 5 2 u (stampTick s))
  if poolCritical u then criticalFault s 3 else s

def poolScrubWord (s : State) (w : Nat) (r : EccResult) : State :=
  if !mainOn s || 0x8000000 ≤ 8 * w then s
  else
    match r with
    | .clean => s
    | .corrected => { s with err := { s.err with poolCe := satAdd s.err.poolCe 1 } }
    | .uncorrectable => poolUncorrectable s (w / 8)

/-- POOL_PATROL_SCRUB (R328) -/
def execPoolPatrolScrub (word : Nat) (r : EccResult) (s : State) : Host.Outcome State Fault Refusal := .next (poolScrubWord s word r)

end Sys2Proof.Machine
end

