-- ==== Sys2Proof/Machine/Governor.lean ====
section
/-! DEFINITION. The governor at a boundary: budget, admission, thermal bands, brake, compute domains, link ports (15; R294 to R303, R306). -/

namespace Sys2Proof.Machine

/-! ### Thermal bands and budget (R297) -/

/-- H of R297: the lesser of the two margins, in °C. -/
def thermalMargin (tj thbm : Int) : Int := min (100 - tj) (90 - thbm)

/-- The band of a margin (R297, R302). -/
def thermalBand (h : Int) : Nat := if 10 ≤ h then 0 else if 5 ≤ h then 1 else if 0 < h then 2 else 3

/-- CAP × T in mJ, times 16: T is in quarters of a ms. -/
def capEnergy16 (cap quarters : Nat) : Nat := cap * quarters * 4

/-- E_therm, times 16. -/
def thermEnergy16 (cap16 band : Nat) : Nat :=
  if band = 0 then cap16 else if band = 1 then cap16 * 3 / 4 else if band = 2 then cap16 / 2 else 0

/-- The greatest of a list of readings. -/
def maxOf (l : List Nat) : Nat := l.foldl max 0

/-- E_base, times 16 (R297). -/
def baseEnergy16 (s : State) : Nat :=
  max (capEnergy16 s.pwr.policy.baseW s.tick.quarters) (16 * maxOf s.pwr.baseHist) + 16 * maxOf s.pwr.excessHist

/-- E_budget in whole mJ (R297); the truncated subtraction is the max with 0. -/
def energyBudget (s : State) (band : Nat) : Nat :=
  (min (capEnergy16 s.pwr.cap s.tick.quarters) (thermEnergy16 (capEnergy16 s.pwr.cap s.tick.quarters) band) - baseEnergy16 s) / 16

/-! ### The ended tick (R298, R300) -/

/-- The last 16 readings, the newest first. -/
def history (x : Nat) (l : List Nat) : List Nat := (x :: l).take 16

/-- The plan excess of the ended tick: what the plan meter shows above the energies declared for what was admitted (R298). -/
def planExcess (s : State) (m : Meters) : Nat := m.planMj - s.pwr.declared

/-- The meters of the ended tick: ENERGY_EXCEEDED, POWER_OVER, the counters and histories. -/
def readMeters (s : State) (ended : Nat) (m : Meters) : State :=
  let x := planExcess s m
  let total := m.baseMj + m.planMj
  let s := if x = 0 then s else postT0 s 0x0802 5 (m.planMj % 2 ^ 32 + s.pwr.declared % 2 ^ 32 * 2 ^ 32 + ended % 2 ^ 48 * 2 ^ 64)
  let s := if 4 * total ≤ s.pwr.cap * s.tick.quarters then s
           else postT0 s 0x0805 5 (total % 2 ^ 32 + s.pwr.cap * s.tick.quarters / 4 % 2 ^ 32 * 2 ^ 32 + ended % 2 ^ 48 * 2 ^ 64)
  { s with pwr := { s.pwr with eLast := total, energy := wrapAdd64 s.pwr.energy total
                               baseHist := history m.baseMj s.pwr.baseHist, excessHist := history x s.pwr.excessHist } }

/-- A new cap takes effect (R305). -/
def applyCap (s : State) : State :=
  match s.pwr.capNext with
  | some w => { s with pwr := { s.pwr with cap := w, capNext := none } }
  | none => s

/-! ### Brake (R302) -/

/-- PlatformEventMessage of a state sensor, by its place in Table 15-3 (`SensorKind`): 4 band, 5 brake. -/
def platformEvent (s : State) (sensor value : Nat) : State := emit s (.service 0 sensor (leBytes 1 value))

def setBand (s : State) (m : Meters) : State :=
  let band := thermalBand (thermalMargin m.tj m.thbm)
  let s' := { s with pwr := { s.pwr with tj := m.tj, thbm := m.thbm, band := band } }
  if s.pwr.band = band then s'
  else platformEvent (postT0 s' 0x0804 5 (band + signedBits 8 m.tj * 2 ^ 8 + signedBits 8 m.thbm * 2 ^ 16)) 4 band

/-- The sources of the brake: pin, rack manager, band 3. The pin counts where a pulse was latched, where it was low since the boundary before, and where it is low now. -/
def brakeSources (s : State) (m : Meters) : Nat :=
  b2n (s.pwr.brakeLatch || s.pin.brakeLow || m.brakeLow) + b2n s.pwr.effecter * 2 + b2n (s.pwr.band == 3) * 4

def setBrake (s : State) (m : Meters) : State :=
  let src := brakeSources s m
  let on := src != 0
  let s' := { s with pwr := { s.pwr with brake := on, brakeLatch := false }, pin := { s.pin with brakeLow := m.brakeLow } }
  if s.pwr.brake = on then s' else platformEvent (postT0 s' 0x0803 5 (b2n on + src * 2)) 5 (b2n on)

/-! ### Admission (R299) -/

/-- ENERGY of a class of a plan: 0 to 3 are A to D. -/
def classEnergy (p : Plan) (c : Nat) : Nat := getAt 0 p.energy c

/-- Whether fixed-slot work was granted when the plan was committed (R104). -/
def fixedGranted (p : Plan) : Bool := !p.fixedFor.isEmpty

/-- Classes B, C and D admitted in order while their energy fits; the mask starts from what is admitted. -/
def admitMore (p : Plan) : List Nat → Int → Nat → Nat
  | [], _, mask => mask
  | c :: t, rem, mask =>
    if (classEnergy p c : Int) ≤ rem then admitMore p t (rem - classEnergy p c) (mask + 2 ^ c) else mask

/-- The classes admitted for a budget (R299). -/
def admitted (p : Plan) (budget : Nat) (brake : Bool) : Nat :=
  if brake then 1 else admitMore p [1, 2, 3] ((budget : Int) - classEnergy p 0 - p.energyFixed) 1

/-- The declared energy of what is admitted. -/
def declaredOf (p : Plan) (mask : Nat) (fixed : Bool) : Nat :=
  ((List.range 4).filter (fun c => mask.testBit c)).foldl (fun a c => a + classEnergy p c) 0 + (if fixed then p.energyFixed else 0)

/-- The first refusal of ADMISSION (Table 15-6). -/
def refusalCode (mask band : Nat) (brake running : Bool) : Nat :=
  if !running || mask = 15 then 0 else if brake then 3 else if band = 0 then 1 else 2

/-- Admission at boundary k, with ADMISSION posted when the set changes. -/
def admitClasses (s : State) (k : Nat) : State :=
  let budget := energyBudget s s.pwr.band
  let mask := match runningPlan s with
    | some p => admitted p budget s.pwr.brake
    | none => 0
  let fixed := match runningPlan s with
    | some p => fixedGranted p
    | none => false
  let declared := match runningPlan s with
    | some p => declaredOf p mask fixed
    | none => 0
  let changed := decide (s.tick.admitted.toNat ≠ mask) || s.tick.fixed != fixed
  let running := (runningPlan s).isSome
  let s := { s with
      tick := { s.tick with admitted := BitVec.ofNat 4 mask, fixed := fixed }
      pwr := { s.pwr with budget := budget, eBase := baseEnergy16 s / 16, declared := declared
                          deferrals := satAdd s.pwr.deferrals (b2n (s.core.active.isSome && !mask.testBit 1)) } }
  if changed then
    postT0 s 0x0801 5 (mask + b2n fixed * 2 ^ 4 + refusalCode mask s.pwr.band s.pwr.brake running * 2 ^ 5 +
      budget % 2 ^ 32 * 2 ^ 8 + k % 2 ^ 48 * 2 ^ 48)
  else s

/-! ### Compute domains (R293 to R295) -/

/-- A working instruction of a queue whose gate is open (R294). -/
def engineWorks (s : State) (q : Nat) : Bool :=
  match runningPlan s with
  | some p => (getAt [] p.queues q).any (fun w => decide (0x10 ≤ opcodeOf w) && gateOpen s (gateOf w))
  | none => false

/-- The compute domains of Table 15-1: bits 0 to 3 LATTICE, 4 PLINTH, 5 VECTOR, 6 CODEC. -/
def computeDomains (s : State) : Nat :=
  b2n (engineWorks s 4) * 15 + b2n (engineWorks s 5) * 16 + b2n (engineWorks s 6) * 32 + b2n (engineWorks s 3) * 64

/-- PWR.DOMAINS with the compute domains as given; the others stay. -/
def setCompute (s : State) (d : Nat) : State :=
  { s with pwr := { s.pwr with domains := (s.pwr.domains &&& 0x7FF80) ||| BitVec.ofNat 19 d } }

/-! ### Link ports (R240, R301) -/

/-- A plan that is active, armed or loaded names a port. -/
def anyPlanNames (s : State) (p : Nat) : Bool :=
  let names := fun (o : Option Plan) => match o with
    | some a => (planPorts a).contains p
    | none => false
  names s.core.active || names s.core.standby

/-- A port counts one more idle tick unless it carried something. -/
def countIdle (s : State) (p : Nat) : State :=
  modPort s p (fun x => { x with idleTicks := if x.carried then 0 else x.idleTicks + 1, carried := false })

/-- A unit that a port in DRAIN will not start (R240 step 1). -/
def drainMoves (v : OutUnit) : Bool := v.tries == 0 && !planUnit v && !drainMsg v.msg

/-- Units not started move from a port in DRAIN: steward messages go on other ports, a grove-time exchange on another port that reaches its chip, and an ANNOUNCE of this hop is not sent. -/
def redirectUnit (p : Nat) (s : State) (v : OutUnit) : State :=
  if v.tag != tagNone then resend s p v
  else if v.msg = 0x51 || v.msg = 0x52 then
    match (activePorts s).find? (reaches s v.peer) with
    | some q => sendPlain s q v.peer v.msg (decodeHead v.u.head).body
    | none => s
  else s

def redirect (s : State) (p : Nat) : State :=
  let vs := (portOf s p).units.filter drainMoves
  vs.foldl (redirectUnit p) (modPort s p (fun x => { x with units := x.units.filter (fun v => !drainMoves v) }))

/-- The governor darkens port p if every condition of R301 holds. -/
def darken (s : State) (p : Nat) : State :=
  if isActive s p && !anyPlanNames s p && decide (s.pwr.policy.linkIdle ≤ (portOf s p).idleTicks) &&
      decide (s.pwr.policy.linkMin < (activePorts s).length) then
    redirect (setPortState s p .drain) p
  else s

/-- A DARK port that is wanted is ungated and trains; another is gated (R301). One that is wanted and has not trained since reset waits for the start that R61 gives it (log 88). -/
def gateOrWake (s : State) (p : Nat) : State :=
  let x := portOf s p
  if x.st ≠ .dark then s
  else if (anyPlanNames s p || decide ((activePorts s).length < s.pwr.policy.linkMin)) && portClock s p && !testMode s then
    if !x.settled && !x.gated then s
    else setPortState (modPort (gatePort s p false) p (fun x => { clearHop x with helloI := 0 })) p .training
  else gatePort s p true

/-- The link ports at a boundary, in ascending order. -/
def governLinks (s : State) : State :=
  let s := (List.range 8).foldl countIdle s
  let s := (List.range 8).foldl gateOrWake s
  (List.range 8).foldl darken s

/-! ### The governor's part of a boundary -/

/-- Step 6 of R108 at boundary k, for meters and sensors of the ended tick. -/
def govern (s : State) (ended k : Nat) (m : Meters) : State :=
  let s := readMeters s ended m
  let s := applyCap s
  let s := setBand s m
  let s := setBrake s m
  let s := admitClasses s k
  governLinks (setCompute s (computeDomains s))

end Sys2Proof.Machine
end

