-- ==== Sys2Proof/Machine/Tick.lean ====
section
/-! DEFINITION. The intake cut, the boundary, graft checkpoints and lead loads (R24, R85, R95, R105, R108, R128, R135,
R147, R148, R179 to R186, R218, R223, R226, R227, R251, R282). -/

namespace Sys2Proof.Machine

/-! ### The intake cut (R24, R95, R105) -/

def intakeCut (s : State) : State :=
  let k := s.time.now / periodNs s
  if !mainOn s || !timeRuns s || decide (k < s.tick.intake) then s else openIntake (advanceTo s (cutNs s)) (k + 1)

/-- INTAKE_CUT (R24) -/
def execIntakeCut (s : State) : Host.Outcome State Fault Refusal := .next (intakeCut s)

/-! ### Debug-hold (R185, R186) -/

/-- A value of HOLD that waits becomes the mode. -/
def takeHold (s : State) : State :=
  match s.knot.holdReq with
  | some b => { s with knot := { s.knot with hold := b, holdReq := none } }
  | none => s

/-- KNOT.MODE.HELD, with HOLD_STATE when it changes (Table 9-5). -/
def setHeld (s : State) (b : Bool) (k : Nat) : State :=
  if s.knot.held = b then s
  else postT0 { s with knot := { s.knot with held := b } } 0x0383 3 (b2n b + k % 2 ^ 48 * 2 ^ 48)

/-- A plan that has not ended its tick: some queue has not executed END. -/
def tickOpen (s : State) : Bool := s.core.active.isSome && !allEnded s

/-- KNOT_BAD_TICK for a host signal whose boundary was skipped or never generated (R180). -/
def lateHostSignal (s : State) (k : Nat) : State :=
  match s.admin with
  | some { d := d, work := .signalAt _ _ n } => if n < k then adminDone s d 0xC1 0 else s
  | _ => s

/-- A skipped boundary (R185). No step of R108 runs, and a TENANT_CONTAIN, a disable or a reset's closing that waits for the boundary waits for the first that is not skipped: the model's choice (log 92). Remote signals held for the tick that is skipped are never applied (R179, R182). -/
def skipBoundary (s : State) (k : Nat) : State :=
  let s := setHeld s true k
  let s := { s with knot := { s.knot with heldSignals := s.knot.heldSignals.filter (fun h => decide (k < h.tick)) } }
  ageAll (dropSkipped (lateHostSignal s k) k) k

/-! ### The end of the tick (R135, R182, R184, R218, R250) -/

/-- The tick-overrun of R184 in tick `ended`; the REASON and bitmap of the RING_STOP that it sends. -/
def overrun (s : State) (ended : Nat) : Option (Nat × Nat) × State :=
  let bits := notEnded s
  let e := overrunEvent s.link.chipId bits ended
  if !s.core.halted then (some (1, bits), raiseFault s 4 0 1 0 ended s.link.chipId e)
  else if s.core.stopReason = 0 then (none, s)
  else
    let s' := saveSummary { s with core := { s.core with stopReason := 0 } } 4 (e.code % 256) ended (s.knot.dump.getD [])
    (some (s.core.stopReason, bits), post s' 0 e)

/-- A handle left in a handle queue: HQ_RESIDUE. Its queue and index fields have no meaning there: free values. -/
def hqResidue (s : State) (ended : Nat) : State :=
  if s.core.hqs.all (·.isEmpty) then s
  else
    let p := drawRandom s (2 ^ 32)
    coreFaultAt p.2 3 (p.1 % 256) (p.1 / 256) ended

/-- A slot that holds a count which no carry load gave it: SAP_RESIDUE. Its port and block fields have no meaning there: free values. -/
def slotResidue (s : State) (ended : Nat) : State :=
  if s.core.halted then s
  else match s.core.slots.find? (fun x => x.2.count != 0 && !x.2.carry) with
    | none => s
    | some (h, _) =>
      let p := drawRandom s (2 ^ 35)
      sapFault p.2 3 (p.1 % 8) h (p.1 / 8) ended

/-- A used credit knot that differs from its INIT: KNOT_DRIFT. -/
def knotDrift (s : State) (ended : Nat) : State :=
  if s.core.halted then s
  else match (rangeFrom 32 16).find? (fun k => knotLimit s k != 0 && knotOf s k != (knotDecl s k).1) with
    | some k => knotFault s 4 k 17 ended
    | none => s

/-- Every epoch knot back to its INIT. -/
def restoreEpochs (s : State) : State :=
  if s.core.halted then s
  else { s with knot := { s.knot with vals := (List.range 48).map (fun k => if k < 32 then (knotDecl s k).1 else knotOf s k) } }

/-- The end of the tick in progress: overrun, or the boundary checks. -/
def endTick (s : State) (ended : Nat) : Option (Nat × Nat) × State :=
  if s.core.active.isNone then (none, s)
  else if tickOpen s then overrun s ended
  else (none, restoreEpochs (knotDrift (slotResidue (hqResidue s ended) ended) ended))

/-- The RING_STOP of an overrun. -/
def sendStop (s : State) (x : Option (Nat × Nat)) : State :=
  match x with
  | some (reason, bits) => sendRingStop s reason bits
  | none => s

/-! ### Step 1: checkpoints (R128) -/

/-- The copy that a graft's next checkpoint overwrites: the older one. -/
def olderCopy (s : State) (graft : Nat) : Nat :=
  match tabFind s.tick.ckptLast graft with
  | some c => 1 - c
  | none => 0

def startCheckpoint (k : Nat) (s : State) (g : GraftEntry) : State :=
  if g.period = 0 || k % g.period ≠ 0 then s
  else
    let c := olderCopy s g.graftId
    let s := hbmCopy s g.stateAddr (if c = 0 then g.copy0 else g.copy1) g.stateLen
    { s with tick := { s.tick with
        ckptRuns := s.tick.ckptRuns.filter (fun r => r.graft != g.graftId) ++ [{ graft := g.graftId, tick := k, copy := c }] } }

def stepCheckpoints (s : State) (k : Nat) : State :=
  match runningPlan s with
  | some p => p.grafts.foldl (startCheckpoint k) s
  | none => s

/-- A copy is complete: it is valid, TICK.CKPT is updated and CHECKPOINT posted. -/
def checkpoint (s : State) (graft : Nat) : State :=
  if (runningPlan s).isNone then s
  else match s.tick.ckptRuns.find? (fun r => r.graft == graft) with
    | none => s
    | some r =>
      let s := { s with tick := { s.tick with
          ckpt := r.tick
          ckptRuns := s.tick.ckptRuns.filter (fun x => x.graft != graft)
          ckptLast := tabSet graft r.copy s.tick.ckptLast } }
      postT0 s 0x0104 3 (r.tick % 2 ^ 48 + graft % 2 ^ 32 * 2 ^ 48)

/-- CHECKPOINT (R128) -/
def execCheckpoint (graft : Nat) (s : State) : Host.Outcome State Fault Refusal := .next (checkpoint s graft)

/-! ### Step 2: activation and void slots (R148, R227) -/

/-- Slots that hold a count are void: freed, scrubbed, untagged; the handle queues are emptied. -/
def voidSlots (s : State) (k : Nat) : State :=
  let hs := heldSlots s
  let s := hs.foldl (fun s h => setSlot (slotZero s h) h Slot.reset) s
  let s := { s with core := { s.core with hqs := List.replicate 16 [] }
                    sap := { s.sap with voided := satAdd s.sap.voided hs.length } }
  if hs.isEmpty then s else postT0 s 0x0403 5 (hs.length + k % 2 ^ 48 * 2 ^ 48)

/-- An armed plan becomes active at boundary k; then the slots held are void (Table 11-5). -/
def activate (s : State) (p : Plan) (k : Nat) : State :=
  let s := { s with
      core := { s.core with standby := none, armed := false, commitN := 0, active := some p
                            activeBuf := !s.core.activeBuf, halted := false, haltedBefore := false, stopReason := 0
                            lead := [], queues := List.replicate 8 Queue.reset }
      tick := { s.tick with ckptRuns := if s.core.halted then [] else s.tick.ckptRuns }
      knot := { s.knot with vals := (List.range 48).map (fun i => (getAt (0, 0) p.knots i).1) } }
  voidSlots (postT0 s 0x0302 3 (k % 2 ^ 48 + p.setId % 2 ^ 64 * 2 ^ 48)) k

/-- The first boundary after a halt: held slots are void, and a copy of a checkpoint in progress is dropped (R128). -/
def voidAfterHalt (s : State) (k : Nat) : State :=
  if s.core.halted && !s.core.haltedBefore then
    voidSlots { s with core := { s.core with haltedBefore := true }, tick := { s.tick with ckptRuns := [] } } k
  else s

/-- Step 2. A plan armed for a boundary that was never generated returns to loaded (log 31). The Bool tells whether a plan became active. -/
def stepActivate (s : State) (k : Nat) : Bool × State :=
  match s.core.standby with
  | some p =>
    if s.core.armed && s.core.commitN == k then (true, activate s p k)
    else if s.core.armed && decide (s.core.commitN < k) then (false, voidAfterHalt (disarm s) k)
    else (false, voidAfterHalt s k)
  | none => (false, voidAfterHalt s k)

/-! ### Queues start (R130, R218, R226) -/

/-- The carry loads of a plan, by index in the LOAD queue. -/
def carryLoads (p : Plan) : List Nat :=
  ((getAt [] p.queues 0).zipIdx.filter (fun e => isCarryLoad e.1)).map (·.2)

/-- A queue starts at its first instruction; what is in flight stays so. -/
def startQueue (q : Queue) : Queue := { Queue.reset with st := .running, flights := q.flights }

def startQueues (s : State) : State := { s with core := { s.core with queues := s.core.queues.map startQueue } }

/-- What a new tick starts from: carried slots, no tables, no landings, sealing from count 0. -/
def freshTick (s : State) : State :=
  let s := discardWaiting s
  { s with
      core := { s.core with slots := s.core.slots.map (fun x => (x.1, { x.2 with carry := false })), tables := none, seals := 0 }
      sap := { s.sap with carried := (heldSlots s).length, landNext := List.replicate 8 0, sendNext := List.replicate 8 0 } }

/-- The queues of the running plan start, after its lead loads where the plan is new. -/
def beginTick (s : State) (new : Bool) : State :=
  match runningPlan s with
  | none => s
  | some p =>
    let s := freshTick s
    if new && !(carryLoads p).isEmpty then { s with core := { s.core with lead := carryLoads p } } else startQueues s

/-- The instruction of a lead load. -/
def leadInsn (s : State) (i : Nat) : Option Insn :=
  match runningPlan s with
  | some p => (getAt [] p.queues 0)[i]?
  | none => none

/-- A lead load fills its slot, under the checks of any LOAD.BLOCK (R133); the slot counts as carried into the tick. -/
def leadLoad (s : State) (i : Nat) : State :=
  match leadInsn s i with
  | some w =>
    loadChecked s i w (fun s =>
      let s := loadInto s w
      setSlot s (fieldOf w 25 16) { slotOf s (fieldOf w 25 16) with carry := false })
  | none => s

/-- A lead load that reads beyond HBM. -/
def leadBeyond (s : State) : Option Nat :=
  ((s.core.lead.filterMap (leadInsn s)).find? (fun w => decide (hbmEnd < (blockSrc w).1 + (blockSrc w).2))).map (fun w => (blockSrc w).1)

/-- The poisoned unit that the fetch of a lead load meets, if any (R328). -/
def leadPoison (s : State) : Option Nat := (s.core.lead.filterMap (fetchPoison s 0)).head?

/-- The last lead load has completed: every queue starts, unless one has halted the core. -/
def leadLoadsDone (s : State) : State :=
  if s.core.lead.isEmpty then s
  else
    let s := readPool s (s.core.lead.map (fun i => (insnAddr s 0 i, 16)))
    match leadPoison s with
    | some u => memPoison s 2 u
    | none =>
      let s := whileRunning leadLoad s s.core.lead
      if s.core.halted then s else startQueues { s with core := { s.core with lead := [] } }

/-- LEAD_LOADS_DONE (R226) -/
def execLeadLoadsDone (s : State) : Host.Outcome State Fault Refusal :=
  match leadBeyond s with
  | some a => .fault (.hbmRange a)
  | none => .next (leadLoadsDone s)

/-! ### Held signals (R149, R179, R180, R182) -/

/-- The host signal held for boundary k. -/
def applyHostSignal (s : State) (k : Nat) : State :=
  match s.admin with
  | some { d := d, work := .signalAt kn a n } =>
    if n < k then adminDone s d 0xC1 0
    else if n ≠ k then s
    else if (runningPlan s).isNone then adminDone s d 0xC0 0
    else if hostSignalBad s kn a then adminDone s d 0xC2 0
    else adminDone (applyAmount s kn a 16) d 0 0
  | _ => s

/-- One held remote signal, checked against the plan now active. -/
def applyHeldSignal (s : State) (h : HeldSignal) : State :=
  match runningPlan s with
  | none => s
  | some p => if p.setId ≠ h.setId then planSplit s h.src h.setId else applyAmount s h.knot h.amount (8 + h.port)

/-- The signals held for the tick that begins: the host's, then by port, then by arrival. One held for a boundary that was not generated is never applied. -/
def applyHeld (s : State) (k : Nat) : State :=
  let s := applyHostSignal s k
  let hs := s.knot.heldSignals.filter (fun h => h.tick == k)
  let s := { s with knot := { s.knot with heldSignals := [] } }
  ((List.range 8).flatMap (fun p => hs.filter (fun h => h.port == p))).foldl applyHeldSignal s

/-! ### Once per tick (R85, R223, R282; 11, "Corners") -/

/-- SAP_DISCARD and REPLAY_EXCESS of a port for the tick that has ended. -/
def portCounts (ended : Nat) (s : State) (p : Nat) : State :=
  let n := getAt 0 s.sap.discards p
  let r := getAt 0 s.sap.replays p
  let s := if n = 0 then s else postT0 s 0x0405 5 (p + n % 2 ^ 24 * 2 ^ 8 + ended % 2 ^ 48 * 2 ^ 32)
  if r ≤ 1 then s else postT0 s 0x0404 5 (p + r % 2 ^ 16 * 2 ^ 16 + ended % 2 ^ 48 * 2 ^ 32)

/-- LIB_WRITE_REFUSED of a host (Table 14-7). -/
def refusedWrites (s : State) (x : Nat × Nat × Nat × Nat) : State :=
  postT0 s 0x0703 5 (x.1 + x.2.1 * 2 ^ 4 + x.2.2.1 % 2 ^ 30 * 2 ^ 8 + x.2.2.2 % 2 ^ 32 * 2 ^ 64)

/-- What is posted once per tick, for the tick that has ended. -/
def oncePerTick (s : State) (ended : Nat) : State :=
  let s := (List.range 8).foldl (portCounts ended) s
  let refused := s.lib.refused
  let s := refused.foldl refusedWrites { s with lib := { s.lib with refused := [] } }
  let s := (fnIds s).foldl resultsLost s
  { s with
      sap := { s.sap with discards := List.replicate 8 0, replays := List.replicate 8 0 }
      host := { s.host with exhausted := false }
      link := { s.link with ports := s.link.ports.map (fun x => { x with discardLogged := false, noPlanLogged := false }) } }

/-! ### The boundary -/

/-- The steps of R108 at boundary k, after the end of tick `ended`. -/
def runBoundary (s : State) (ended k : Nat) (m : Meters) : State :=
  let e := endTick (setHeld s false k) ended
  let s := finishTick e.2 k
  let s := sendStop { s with tick := { s.tick with index := k } } e.1
  let s := stepCheckpoints s k
  let a := stepActivate s k
  let s := applyContain (applyDisables (applyEndings a.2)) k
  let s := stepAge (keepQuarantine (stepControls (stepUnbind s k) k) k) k
  let s := applyShare (applyPolicy s)
  let s := govern s ended k m
  let s := beginTick (closeRest (buildTiles s k) k) a.1
  oncePerTick (postWindow (applyHeld s k) k) ended

/-- Boundary k reached: the warm reset that waits for it, a skip, or the steps of R108. The intake of the ended tick is counted whole. Cancels accepted before the boundary take effect; one that a COMMIT_TIMEOUT at this boundary brings takes effect at the next (R286). -/
def atBoundary (s : State) (k : Nat) (m : Meters) : State :=
  let s := if s.tick.intake < k then openIntake s k else s
  let s := (fnIds s).foldl endTally s
  let s := takeHold s
  let s := if warmWaits s || (s.knot.hold && tickOpen s) then s else applyCancels s
  let s := commitTimeout (payloadDeadline s k) k
  if warmWaits s then warmDue { s with tick := { s.tick with index := k } }
  else if s.knot.hold && tickOpen s then skipBoundary s k
  else runBoundary s s.tick.index k m

/-- Grove time reaches the next boundary. Sensors that the governor reads at the trip point trip the chip, whatever the boundary would do (R44, R302). -/
def tickBoundary (s : State) (m : Meters) : State :=
  if !mainOn s || !timeRuns s || resetDue s then s
  else
    let k := s.time.now / periodNs s + 1
    let s := advanceTo s (k * periodNs s)
    if decide (115 ≤ m.tj) || decide (100 ≤ m.thbm) then temperatureWarning s m.tj m.thbm else atBoundary s k m

/-- TICK_BOUNDARY (R108) -/
def execTickBoundary (m : Meters) (s : State) : Host.Outcome State Fault Refusal := .next (tickBoundary s m)

end Sys2Proof.Machine
end

