-- ==== Sys2Proof/Machine/Dispatch.lean ====
section
/-! DEFINITION. The dispatch: one arm per command. -/

namespace Sys2Proof.Machine

def exec (i : Instr) (s : State) : Host.Outcome State Fault Refusal :=
  match i with
  | .coldReset railLost => Sys2Proof.Machine.execColdReset railLost s
  | .aonRstNRelease bootSrc svcAddr testMode => Sys2Proof.Machine.execAonRstNRelease bootSrc svcAddr testMode s
  | .mainEn => Sys2Proof.Machine.execMainEn s
  | .mainPgTimeout => Sys2Proof.Machine.execMainPgTimeout s
  | .mainPg => Sys2Proof.Machine.execMainPg s
  | .clockCheck deviationPpm modulated serdesA serdesB => Sys2Proof.Machine.execClockCheck deviationPpm modulated serdesA serdesB s
  | .hbmTrained failed => Sys2Proof.Machine.execHbmTrained failed s
  | .mainSupplyLoss => Sys2Proof.Machine.execMainSupplyLoss s
  | .mainEnRequest => Sys2Proof.Machine.execMainEnRequest s
  | .stewardStart => Sys2Proof.Machine.execStewardStart s
  | .portTrainingStart port => Sys2Proof.Machine.execPortTrainingStart port s
  | .portTrained port => Sys2Proof.Machine.execPortTrained port s
  | .portTrainingTimeout port => Sys2Proof.Machine.execPortTrainingTimeout port s
  | .hello port => Sys2Proof.Machine.execHello port s
  | .helloAck port u => Sys2Proof.Machine.execHelloAck port u s
  | .ready => Sys2Proof.Machine.execReady s
  | .bootTimeout => Sys2Proof.Machine.execBootTimeout s
  | .windowOpen nandGib => Sys2Proof.Machine.execWindowOpen nandGib s
  | .bootHealthy knownAnswers => Sys2Proof.Machine.execBootHealthy knownAnswers s
  | .bootHealthTimeout => Sys2Proof.Machine.execBootHealthTimeout s
  | .perstNRelease refclkStable => Sys2Proof.Machine.execPerstNRelease refclkStable s
  | .linkTriggeredReset cause => Sys2Proof.Machine.execLinkTriggeredReset cause s
  | .hostLinkUp => Sys2Proof.Machine.execHostLinkUp s
  | .configRequest ld fn op => Sys2Proof.Machine.execConfigRequest ld fn op s
  | .functionLevelReset => Sys2Proof.Machine.execFunctionLevelReset s
  | .perVfReset which => Sys2Proof.Machine.execPerVfReset which s
  | .flrComplete scope => Sys2Proof.Machine.execFlrComplete scope s
  | .ldReset ld => Sys2Proof.Machine.execLdReset ld s
  | .temperatureWarning tj thbm => Sys2Proof.Machine.execTemperatureWarning tj thbm s
  | .thermtrip => Sys2Proof.Machine.execThermtrip s
  | .pwrBrakeN stillLow => Sys2Proof.Machine.execPwrBrakeN stillLow s
  | .narrowAccess fn offset width write => Sys2Proof.Machine.execNarrowAccess fn offset width write s
  | .lowWordRead fn offset => Sys2Proof.Machine.execLowWordRead fn offset s
  | .highWordRead fn offset => Sys2Proof.Machine.execHighWordRead fn offset s
  | .registerWrite fn offset value => Sys2Proof.Machine.execRegisterWrite fn offset value s
  | .ringEnable fn ring log2 => Sys2Proof.Machine.execRingEnable fn ring log2 s
  | .ringDisable fn ring log2 => Sys2Proof.Machine.execRingDisable fn ring log2 s
  | .hold on => Sys2Proof.Machine.execHold on s
  | .knotDbgSet knot value => Sys2Proof.Machine.execKnotDbgSet knot value s
  | .knotDbgAdd knot value => Sys2Proof.Machine.execKnotDbgAdd knot value s
  | .dbgPoolDataRead => Sys2Proof.Machine.execDbgPoolDataRead s
  | .dvdbg => Sys2Proof.Machine.execDvdbg s
  | .doorbellInvalidation fn r => Sys2Proof.Machine.execDoorbellInvalidation fn r s
  | .doorbellPoll fn r => Sys2Proof.Machine.execDoorbellPoll fn r s
  | .frame fn d => Sys2Proof.Machine.execFrame fn d s
  | .openStream fn d => Sys2Proof.Machine.execOpenStream fn d s
  | .bind fn d => Sys2Proof.Machine.execBind fn d s
  | .pause fn d => Sys2Proof.Machine.execPause fn d s
  | .resume fn d => Sys2Proof.Machine.execResume fn d s
  | .close fn d => Sys2Proof.Machine.execClose fn d s
  | .payloadFetchComplete stream seq bytes => Sys2Proof.Machine.execPayloadFetchComplete stream seq bytes s
  | .payloadFetchFail stream seq => Sys2Proof.Machine.execPayloadFetchFail stream seq s
  | .completionTimeout tag => Sys2Proof.Machine.execCompletionTimeout tag s
  | .tagQuarantineEnd tag => Sys2Proof.Machine.execTagQuarantineEnd tag s
  | .unexpectedCompletion tag => Sys2Proof.Machine.execUnexpectedCompletion tag s
  | .nop d => Sys2Proof.Machine.execNop d s
  | .planLoad d buf => Sys2Proof.Machine.execPlanLoad d buf s
  | .planCommit d => Sys2Proof.Machine.execPlanCommit d s
  | .planCancel d => Sys2Proof.Machine.execPlanCancel d s
  | .keyLoad d buf => Sys2Proof.Machine.execKeyLoad d buf s
  | .keyClear d => Sys2Proof.Machine.execKeyClear d s
  | .tenantSet d buf => Sys2Proof.Machine.execTenantSet d buf s
  | .tenantQuarantine d => Sys2Proof.Machine.execTenantQuarantine d s
  | .tenantRelease d => Sys2Proof.Machine.execTenantRelease d s
  | .tenantEvict d => Sys2Proof.Machine.execTenantEvict d s
  | .knotSignal d => Sys2Proof.Machine.execKnotSignal d s
  | .knotDump d => Sys2Proof.Machine.execKnotDump d s
  | .libPublish d => Sys2Proof.Machine.execLibPublish d s
  | .libRetire d => Sys2Proof.Machine.execLibRetire d s
  | .libPrefetchStage d => Sys2Proof.Machine.execLibPrefetchStage d s
  | .libPrefetchCancel d => Sys2Proof.Machine.execLibPrefetchCancel d s
  | .libPrefetchUnstage d => Sys2Proof.Machine.execLibPrefetchUnstage d s
  | .powerPolicy d buf => Sys2Proof.Machine.execPowerPolicy d buf s
  | .fwBlock d buf flashOk => Sys2Proof.Machine.execFwBlock d buf flashOk s
  | .fwActivateNow d => Sys2Proof.Machine.execFwActivateNow d s
  | .fwActivateAtReset d => Sys2Proof.Machine.execFwActivateAtReset d s
  | .fwDiscard d => Sys2Proof.Machine.execFwDiscard d s
  | .debugUnlock d buf => Sys2Proof.Machine.execDebugUnlock d buf s
  | .debugLock d => Sys2Proof.Machine.execDebugLock d s
  | .warmReset d => Sys2Proof.Machine.execWarmReset d s
  | .serviceWarmReset => Sys2Proof.Machine.execServiceWarmReset s
  | .warmResetEnter => Sys2Proof.Machine.execWarmResetEnter s
  | .logRead d => Sys2Proof.Machine.execLogRead d s
  | .sliceSet d buf => Sys2Proof.Machine.execSliceSet d buf s
  | .peerProbeTimeout chip port => Sys2Proof.Machine.execPeerProbeTimeout chip port s
  | .intakeCut => Sys2Proof.Machine.execIntakeCut s
  | .tickBoundary m => Sys2Proof.Machine.execTickBoundary m s
  | .checkpoint graft => Sys2Proof.Machine.execCheckpoint graft s
  | .leadLoadsDone => Sys2Proof.Machine.execLeadLoadsDone s
  | .nopInstruction q w => Sys2Proof.Machine.execNopInstruction q w s
  | .fence q w => Sys2Proof.Machine.execFence q w s
  | .signal q w => Sys2Proof.Machine.execSignal q w s
  | .wait q w => Sys2Proof.Machine.execWait q w s
  | .release q w => Sys2Proof.Machine.execRelease q w s
  | .waitTime q w => Sys2Proof.Machine.execWaitTime q w s
  | .waitTimeExpire q => Sys2Proof.Machine.execWaitTimeExpire q s
  | .endQueue q w => Sys2Proof.Machine.execEndQueue q w s
  | .loadBlock w => Sys2Proof.Machine.execLoadBlock w s
  | .loadStage w => Sys2Proof.Machine.execLoadStage w s
  | .loadSpill w => Sys2Proof.Machine.execLoadSpill w s
  | .loadCopy w => Sys2Proof.Machine.execLoadCopy w s
  | .loadXpose w => Sys2Proof.Machine.execLoadXpose w s
  | .sapinLand w => Sys2Proof.Machine.execSapinLand w s
  | .sapoutLaunch w => Sys2Proof.Machine.execSapoutLaunch w s
  | .sapoutForward w => Sys2Proof.Machine.execSapoutForward w s
  | .sapSlot sched => Sys2Proof.Machine.execSapSlot sched s
  | .sapLate sched => Sys2Proof.Machine.execSapLate sched s
  | .codecOpen w => Sys2Proof.Machine.execCodecOpen w s
  | .codecSeal w => Sys2Proof.Machine.execCodecSeal w s
  | .latticeMul w => Sys2Proof.Machine.execLatticeMul w s
  | .plinthMma w => Sys2Proof.Machine.execPlinthMma w s
  | .vectorOp w => Sys2Proof.Machine.execVectorOp w s
  | .hostioGather w => Sys2Proof.Machine.execHostioGather w s
  | .hostioPost w => Sys2Proof.Machine.execHostioPost w s
  | .hostioNotify w => Sys2Proof.Machine.execHostioNotify w s
  | .engineWorkComplete q => Sys2Proof.Machine.execEngineWorkComplete q s
  | .chunk port u => Sys2Proof.Machine.execChunk port u s
  | .knotSignalMessage port u => Sys2Proof.Machine.execKnotSignalMessage port u s
  | .ack port u => Sys2Proof.Machine.execAck port u s
  | .nak port u => Sys2Proof.Machine.execNak port u s
  | .replayTimeout port peer => Sys2Proof.Machine.execReplayTimeout port peer s
  | .retryAfter port u => Sys2Proof.Machine.execRetryAfter port u s
  | .retryAfterExpiry port peer => Sys2Proof.Machine.execRetryAfterExpiry port peer s
  | .unreachable port u => Sys2Proof.Machine.execUnreachable port u s
  | .keepalive port u => Sys2Proof.Machine.execKeepalive port u s
  | .keepaliveSend port => Sys2Proof.Machine.execKeepaliveSend port s
  | .hopDown port => Sys2Proof.Machine.execHopDown port s
  | .portOff port => Sys2Proof.Machine.execPortOff port s
  | .drainTimeout port => Sys2Proof.Machine.execDrainTimeout port s
  | .peerUp port u => Sys2Proof.Machine.execPeerUp port u s
  | .peerDown port u => Sys2Proof.Machine.execPeerDown port u s
  | .commitCheck port u => Sys2Proof.Machine.execCommitCheck port u s
  | .commitAbort port u => Sys2Proof.Machine.execCommitAbort port u s
  | .ringStop port u => Sys2Proof.Machine.execRingStop port u s
  | .peerProbe port u => Sys2Proof.Machine.execPeerProbe port u s
  | .peerAck port u => Sys2Proof.Machine.execPeerAck port u s
  | .announce port u => Sys2Proof.Machine.execAnnounce port u s
  | .announceSend => Sys2Proof.Machine.execAnnounceSend s
  | .announceTimeout => Sys2Proof.Machine.execAnnounceTimeout s
  | .syncReqSend => Sys2Proof.Machine.execSyncReqSend s
  | .syncReq port u => Sys2Proof.Machine.execSyncReq port u s
  | .syncResp port u => Sys2Proof.Machine.execSyncResp port u s
  | .holdover => Sys2Proof.Machine.execHoldover s
  | .holdoverExpiry => Sys2Proof.Machine.execHoldoverExpiry s
  | .cxlMemRead ld line => Sys2Proof.Machine.execCxlMemRead ld line s
  | .cxlMemWrite ld line data => Sys2Proof.Machine.execCxlMemWrite ld line data s
  | .ownershipRequest ld line => Sys2Proof.Machine.execOwnershipRequest ld line s
  | .cacheFill page r => Sys2Proof.Machine.execCacheFill page r s
  | .bisnpResponse ld line data => Sys2Proof.Machine.execBisnpResponse ld line data s
  | .biTimeout ld line => Sys2Proof.Machine.execBiTimeout ld line s
  | .dirtyPageWriteback page => Sys2Proof.Machine.execDirtyPageWriteback page s
  | .prefetchEnd record => Sys2Proof.Machine.execPrefetchEnd record s
  | .cancelComplete record => Sys2Proof.Machine.execCancelComplete record s
  | .hbmPatrolScrub unit r => Sys2Proof.Machine.execHbmPatrolScrub unit r s
  | .poolPatrolScrub word r => Sys2Proof.Machine.execPoolPatrolScrub word r s
  | .transferTimeout => Sys2Proof.Machine.execTransferTimeout s
  | .queryDeviceIdentifiers => Sys2Proof.Machine.execQueryDeviceIdentifiers s
  | .getFirmwareParameters => Sys2Proof.Machine.execGetFirmwareParameters s
  | .requestUpdate => Sys2Proof.Machine.execRequestUpdate s
  | .passComponentTable component => Sys2Proof.Machine.execPassComponentTable component s
  | .updateComponent component => Sys2Proof.Machine.execUpdateComponent component s
  | .requestFirmwareData bytes flashOk => Sys2Proof.Machine.execRequestFirmwareData bytes flashOk s
  | .activateFirmware selfContained => Sys2Proof.Machine.execActivateFirmware selfContained s
  | .getStatus => Sys2Proof.Machine.execGetStatus s
  | .cancelUpdateComponent => Sys2Proof.Machine.execCancelUpdateComponent s
  | .cancelUpdate => Sys2Proof.Machine.execCancelUpdate s
  | .moduleCapSet watts => Sys2Proof.Machine.execModuleCapSet watts s
  | .brakeEffecterSet on => Sys2Proof.Machine.execBrakeEffecterSet on s
  | .sensorRead kind => Sys2Proof.Machine.execSensorRead kind s
  | .pdrRead => Sys2Proof.Machine.execPdrRead s
  | .mctpControl c => Sys2Proof.Machine.execMctpControl c s
  | .vendorLogRead source start len => Sys2Proof.Machine.execVendorLogRead source start len s
  | .faultRecordRead => Sys2Proof.Machine.execFaultRecordRead s
  | .anchor => Sys2Proof.Machine.execAnchor s
  | .writeBackComplete page programmed life spareLeft => Sys2Proof.Machine.execWriteBackComplete page programmed life spareLeft s
  | .descriptorFetchComplete fn ring r => Sys2Proof.Machine.execDescriptorFetchComplete fn ring r s
  | .dynamicAddressAssignment address => Sys2Proof.Machine.execDynamicAddressAssignment address s

end Sys2Proof.Machine
end

