-- ==== Sys2Proof/Safety.lean ====
section
/-! DEFINITION. What a safe step is, in the terms the statements use. -/

namespace Sys2Proof.Machine

/-- The outcome is a next state. -/
def Completes (o : Host.Outcome State Fault Refusal) : Prop := ∃ t, o = .next t

/-- A command answers a next state of which P holds. -/
def Runs (c : Instr) (s : State) (P : State → Prop) : Prop := ∃ t, exec c s = .next t ∧ P t

/-- The parts of a state: one for each field of `State`, and eight that hold what posting an entry, moving a queue or using a link leaves as it was in the host port (`port`, `fn`), the logs (`ras`), the links (`chip`, `peers`) and the core (`plan`, `halt`, `hqs`). -/
inductive Part where
  | fuse | pin | boot | host | ten | str | tick | core | mem | knot | sap | link | time | lib | pwr | stw | err | dbg
  | admin | out | draws | pending
  | port | fn | ras | chip | peers | plan | halt | hqs
  deriving DecidableEq, Repr

/-- What software sets of a ring (Table 4-5). -/
def ringSet (x : Ring) : Ring :=
  { Ring.reset with baseLo := x.baseLo, baseHi := x.baseHi, log2 := x.log2, enable := x.enable }

/-- What a function is apart from its traffic: what software sets, its mode, and a reset in progress (Tables 4-3, 4-4). -/
def fnSet (f : FnState) : FnState :=
  { FnState.reset with dbLo := f.dbLo, dbHi := f.dbHi, pollUs := f.pollUs, poll := f.poll, coherent := f.coherent
                       readFailed := f.readFailed, rings := f.rings.map ringSet, enables := f.enables, bars := f.bars, msix := f.msix
                       unmasked := f.unmasked, resetting := f.resetting }

/-- One part reads the same in both states. -/
def samePart (s t : State) : Part → Prop
  | .fuse => t.fuse = s.fuse
  | .pin => t.pin = s.pin
  | .boot => t.boot = s.boot
  | .host => t.host = s.host
  | .ten => t.ten = s.ten
  | .str => t.str = s.str
  | .tick => t.tick = s.tick
  | .core => t.core = s.core
  | .mem => t.mem = s.mem
  | .knot => t.knot = s.knot
  | .sap => t.sap = s.sap
  | .link => t.link = s.link
  | .time => t.time = s.time
  | .lib => t.lib = s.lib
  | .pwr => t.pwr = s.pwr
  | .stw => t.stw = s.stw
  | .err => t.err = s.err
  | .dbg => t.dbg = s.dbg
  | .admin => t.admin = s.admin
  | .out => t.out = s.out
  | .draws => t.draws = s.draws
  | .pending => t.pending = s.pending
  | .port => t.host = { s.host with fns := t.host.fns, reads := t.host.reads, readWait := t.host.readWait
                                    quarantine := t.host.quarantine, exhausted := t.host.exhausted, latches := t.host.latches }
  | .fn => ∀ n, fnSet (fnOf t n) = fnSet (fnOf s n)
  | .ras => t.err = { s.err with log := t.err.log, nextSeq := t.err.nextSeq, logLost := t.err.logLost
                                 lossSince := t.err.lossSince, second := t.err.second, inSecond := t.err.inSecond }
  | .chip => t.link.chipId = s.link.chipId ∧ t.link.valid = s.link.valid
  | .peers => t.link.up = s.link.up ∧ t.link.probes = s.link.probes
  | .plan => t.core.standby = s.core.standby ∧ t.core.armed = s.core.armed ∧ t.core.commitN = s.core.commitN ∧
      t.core.heard = s.core.heard ∧ t.core.active = s.core.active ∧ t.core.activeBuf = s.core.activeBuf
  | .halt => t.core.halted = s.core.halted ∧ t.core.haltedBefore = s.core.haltedBefore ∧
      t.core.stopReason = s.core.stopReason ∧ t.core.lead = s.core.lead
  | .hqs => t.core.hqs = s.core.hqs

/-- The frame of a command: every part outside the list is unchanged. -/
def Unchanged (parts : List Part) (s t : State) : Prop := ∀ p : Part, p ∉ parts → samePart s t p

/-- The control descriptor that a command of ring 0 leaves for its boundary (R114). -/
def ctlLeft (s : State) (fn : Nat) (d : Desc) (op model k : Nat) : CtlReq :=
  { ord := s.str.nextOrd, fn := fn, opcode := op, stream := dStream d, cookie := dCookie d, model := model, intake := k }

/-- An admin descriptor of an opcode is the next to be carried out, and may start (R69, R82). -/
abbrev AdminMay (s : State) (d : Desc) (op : Nat) : Prop :=
  (fnOf s 0).adminFetched.head? = some d ∧ aOpcode d = op ∧ s.admin = none ∧ s.boot.dom = .on ∧ resetDue s = false ∧
    (fnOf s 0).resetting = false

/-- The state once the admin descriptor has left the descriptors fetched. -/
def adminTaken (s : State) : State := modFn s 0 (fun f => { f with adminFetched := f.adminFetched.tail })

/-- A chip fault of a kind is recorded: its record is the newest of the at most 16 stored, and waits to be read (R325, R339). -/
def FaultStored (s t : State) (kind : Nat) : Prop :=
  ∃ r : LogRec, r.code = 0x0A01 ∧ r.scope = 5 ∧ r.fault = true ∧ r.detail % 256 = kind ∧
    t.err.store = (s.err.store ++ [r]).drop (s.err.store.length - 15) ∧ t.err.unread = s.err.unread ++ [r]

/-- The main domains have lost what they hold: reset values but for the counters, the library's flash and what is set for the next start (Tables 3-2, 3-5; R333). The ports are given apart. -/
def MainCleared (s t : State) : Prop :=
  t.host = HostPort.reset ∧ t.ten = Tenants.reset ∧ t.str = Streams.reset ∧ t.tick = Tick.reset ∧ t.core = Core.reset ∧
  t.mem = Memory.reset ∧ t.knot = { Knots.reset with dumpsLost := s.knot.dumpsLost } ∧
  t.sap = { Sap.reset with voided := s.sap.voided, bytesOut := s.sap.bytesOut, bytesIn := s.sap.bytesIn, late := s.sap.late
                           checkFail := s.sap.checkFail, lastCheck := s.sap.lastCheck } ∧
  t.link = { Link.reset with ports := t.link.ports } ∧
  t.link.ports.map (fun x => { x with settled := false }) = s.link.ports.map portKept ∧
  t.time = { Time.reset with steps := s.time.steps, holdovers := s.time.holdovers, logNs := s.time.logNs } ∧
  t.lib = libKept s.lib ∧
  t.pwr = { Power.reset with cap := s.pwr.cap, capNext := s.pwr.capNext, deferrals := s.pwr.deferrals, energy := s.pwr.energy
                             effecter := s.pwr.effecter, brakeLatch := s.pwr.brakeLatch } ∧
  t.dbg = Dbg.reset ∧ t.admin = none ∧ t.err.unlocked = false

/-- The steward's record of the start once the main domains have lost what they hold. -/
def bootCleared (b : Boot) : Boot :=
  { b with ready := false, hbmOk := false, hbmFailed := 0, healthy := false, cfgRead := false, cfgWrote := false
           memActive := false, warm := none }

/-- What the admin ring and the log leave room for: one more record, none lost before it, and no event lost (R85, R332). -/
abbrev LogQuiet (s : State) : Prop := s.err.lossSince = 0 ∧ logAtLimit s = false ∧ (fnOf s 0).lostEvents = 0

/-- Exactly one more record, of a code and DETAIL, is in the log (R330). -/
def LogOne (s t : State) (code detail : Nat) : Prop :=
  ∃ r : LogRec, r.code = code ∧ r.detail = detail ∧ r.seq = s.err.nextSeq ∧ t.err.nextSeq = s.err.nextSeq + 1 ∧
    t.err.log = (if 4096 ≤ s.err.log.length then s.err.log.drop 1 else s.err.log) ++ [r]

/-- The ports that a missing SERDES reference clock feeds are settled, each dark for good; the others as they were (R51, R61). -/
def DarkSettled (s t : State) (a b : Bool) : Prop :=
  ∀ p, p < 8 → portOf t p = { portOf s p with settled := (portOf s p).settled || (if p < 4 then !a else !b) }

/-- A configuration request to function fn by LD0 is served: the link is up, the chip ready, the function there and not in reset (R63, Table 4-15). -/
abbrev ConfigMay (s : State) (fn : Nat) : Prop :=
  s.host.linkUp = true ∧ s.boot.ready = true ∧ (fnOf s 0).resetting = false ∧ fnExists s fn = true ∧ (fnOf s fn).resetting = false

/-- The streams of some functions are marked to be closed by a reset at the next boundary, and no other changes (R54, R353). -/
def StreamsReset (s t : State) (fns : List Nat) : Prop :=
  ∀ i, streamOf t i = if fns.any (fun n => (streamsOf s n).contains i) then { streamOf s i with ending := some 3 } else streamOf s i

/-- An admin descriptor of an opcode with a buffer is the next, and a read tag is free for the buffer (R82, R89). -/
abbrev BufferMay (s : State) (d : Desc) (op : Nat) : Prop := AdminMay s d op ∧ (freeReadTag s.host).isSome = true

/-- The state once the admin descriptor is taken and the read of its buffer has been sent out (R87). -/
def adminRead (s : State) (d : Desc) : State :=
  match freeReadTag s.host with
  | some t => emit (adminTaken s) (.dmaRead t (aAddr d) (aLen d) false (readTimeoutNs s))
  | none => adminTaken s

/-- The instruction at the head of a queue may issue, and its fetch meets no poison; no unit of the pool or of HBM is damaged (R129, R327, R328). -/
abbrev InsnMay (s : State) (q : Nat) (w : Insn) (op : Nat) : Prop :=
  mayIssue s q w = true ∧ opcodeOf w = op ∧ fetchPoison s q (queueOf s q).head = none ∧ q < 8 ∧ s.core.queues.length = 8 ∧
    s.core.halted = false ∧ s.mem.poolBad = [] ∧ s.mem.hbmBad = []

/-- The handle operand at a bit of an instruction gives a handle, named or popped, and leaves a state (R135). -/
abbrev HandleTaken (s : State) (q : Nat) (w : Insn) (lo h : Nat) (s' : State) : Prop :=
  takeHandle s q (fieldOf w (lo + 10) lo) = (some h, s')

/-- The instruction pops a handle queue that is empty (R135). -/
abbrev HandleMissing (s : State) (q : Nat) (w : Insn) (lo : Nat) : Prop := (takeHandle s q (fieldOf w (lo + 10) lo)).1 = none

/-- A queue past its head, running (R129). -/
def queuePast (s : State) (q : Nat) : Queue :=
  { queueOf s q with head := (queueOf s q).head + 1, st := .running, knot := none }

/-- A queue has gone past its head with an instruction in flight, and no other queue has changed (R129). -/
def Launched (s t : State) (q : Nat) (fl : Flight) : Prop :=
  queueOf t q = { queueOf s q with head := (queueOf s q).head + 1, flights := (queueOf s q).flights ++ [fl] } ∧
    ∀ p, p ≠ q → queueOf t p = queueOf s p

/-- One byte of the pool, and of HBM. -/
def poolByte (s : State) (a : Nat) : Byte := memRead 0 s.mem.pool a
def hbmByte (s : State) (a : Nat) : Byte := memRead 0 s.mem.hbm a

/-- Every byte of the pool outside n bytes from a is unchanged. -/
def PoolKept (s t : State) (a n : Nat) : Prop := ∀ b, b < a ∨ a + n ≤ b → poolByte t b = poolByte s b

/-- A control message or chunk whose head is whole comes in on an ACTIVE port (R234, R236); a chunk's code is 0. -/
abbrev MsgMay (s : State) (p : Nat) (u : RawUnit) (msg : Nat) : Prop :=
  mainOn s = true ∧ p < 8 ∧ s.link.ports.length = 8 ∧ (portOf s p).st = .active ∧ headFault u = false ∧ (decodeHead u.head).msg = msg

/-- The head of a unit, and the chip that sent it. -/
def headOf (u : RawUnit) : Head := decodeHead u.head
def srcOf (u : RawUnit) : Nat := (decodeHead u.head).src

/-- The unit carries the LSN that its port expects of its sender (R238). -/
abbrev InOrder (s : State) (p : Nat) (u : RawUnit) : Prop := lsnAhead (tabGet 0 (portOf s p).lsnRx (srcOf u)) (decodeHead u.head).seq = 0

/-- The LSN expected next once an in-order unit has been taken (R238). -/
def LsnTaken (s t : State) (p : Nat) (u : RawUnit) : Prop :=
  tabGet 0 (portOf t p).lsnRx (srcOf u) = (tabGet 0 (portOf s p).lsnRx (srcOf u) + 1) % 4096

/-- Every unit of a port has been transmitted and none is to be sent again: nothing waits for credits or a tag (R239). -/
abbrev AllSent (s : State) (p : Nat) : Prop := ∀ v ∈ (portOf s p).units, v.tries ≠ 0 ∧ v.again = false

/-- Every unit of a port has been transmitted, and SAPOUT has no send in flight: credits that come back start nothing (R214, R239). -/
abbrev LinkStill (s : State) (p : Nat) : Prop := AllSent s p ∧ sendWorks s = []

/-- No port but one is changed. -/
def OtherPorts (s t : State) (p : Nat) : Prop := ∀ q, q ≠ p → portOf t q = portOf s q

/-- A publish is in progress (R281). -/
def publishing (s : State) : Bool :=
  match s.admin with
  | some { d := _, work := .publish _ _ _ _ } => true
  | _ => false

/-- Nothing in the library goes on: no request waits, and no eviction, publish or flush is under way (R275, R281). -/
abbrev LibStill (s : State) : Prop :=
  s.lib.waiting = [] ∧ flushing s = false ∧ (∀ x ∈ s.lib.pages, x.evicting = false) ∧ publishing s = false

/-- The library is open and nothing in it waits, no recall either (R275, R281). -/
abbrev LibQuiet (s : State) : Prop := s.lib.isOpen = true ∧ s.lib.snoops = [] ∧ LibStill s

/-- A library range of n pages from a first page holds a page, or the page of a line (R280). -/
def inRange (first n p : Nat) : Bool := decide (first ≤ p) && decide (p < first + n)

/-- The probes of a slice check once a chip has answered on a port, or has not (R248). -/
def probesAfter (s : State) (chip port : Nat) (g : Probe → Probe) : List Probe :=
  s.link.probes.map (fun q => if q.chip = chip && q.port = port && !probeDone q then g q else q)

/-- The status and DETAIL of a slice check whose probes are all settled (R248). -/
def sliceStatus (l : List Probe) : Nat × Nat :=
  match l.find? (fun q => q.answer != some true) with
  | none => (0, 0)
  | some q => (if q.answer = none then 0xC2 else 0xC3, q.chip + q.port * 2 ^ 16)

/-- One byte of the flash, of the cached library, and of the boot flash. -/
def flashByte (s : State) (a : Nat) : Byte := memRead 0 s.lib.flash a
def cacheByte (s : State) (a : Nat) : Byte := memRead 0 s.lib.cache a
def spiByte (s : State) (a : Nat) : Byte := memRead 0xFF s.stw.spi a

/-- The five byte memories are in canonical form (log 6). -/
def MemoriesWf (s : State) : Prop :=
  memWf 0 s.mem.pool = true ∧ memWf 0 s.mem.hbm = true ∧ memWf 0 s.lib.flash = true ∧ memWf 0 s.lib.cache = true ∧
    memWf 0xFF s.stw.spi = true

/-- The sector of the boot record that the next record goes to: the one that holds no current record (R309). -/
def recNext (s : State) : Nat :=
  match recCurrent s with
  | some (i, _) => 1 - i
  | none => 0

/-- PLDM for Firmware Update is answered: by the firmware, and by the ROM in recovery mode (R318, R320). -/
abbrev PldmServed (s : State) : Prop := s.boot.phase = .firmware ∨ s.boot.phase = .recovery

/-- INIT_ADDR of a model entry of the active or armed plan lies in a record's INIT range (R287). -/
def InitNamed (s : State) (r : PrefetchRec) : Prop :=
  ∃ p, (s.core.active = some p ∨ s.core.armed = true ∧ s.core.standby = some p) ∧
    ∃ m ∈ p.models, r.init ≤ m.initAddr ∧ m.initAddr < r.init + r.initLen

/-- The landing that a SAPIN.LAND begins (Table 7-6). -/
def landWorkOf (w : Insn) : LandWork :=
  { sched := fieldOf w 31 16, dst := fieldOf w 41 32, pa := pushField w 42, early := bitAt w.toNat 47, ek := knotField w 53, landed := 0 }

/-- A run of commands in which every one answers a next state. -/
def runAll : List Instr → State → Option State
  | [], s => some s
  | c :: t, s =>
    match exec c s with
    | .next s' => runAll t s'
    | .fault _ => none
    | .refused _ => none

end Sys2Proof.Machine
end

