-- ==== Sys2Proof/Certificates/Slice0/Obligations.lean ====
section
/-! DEFINITION. The statements about the model. -/

open Sys2Proof Sys2Proof.Machine

/-- COLD_RESET completes in every state and keeps only the fuses, the boot flash, the library's flash with its catalogue and wear, the stored fault records and what stands outside the chip; every other register, pin, buffer and queue of the chip takes its reset value (Table 3-2, R52, R53; the wear by log 81). The commands that wait and the count of random draws are the model's own. -/
def Obligations.ColdResetKeepsOnlyNonVolatile : Prop :=
  ∀ (s : State) (lost : Bool), exec (.coldReset lost) s = .next { State.reset with
    fuse := s.fuse
    pin := { Pins.reset with aonRails := !lost, perstN := s.pin.perstN, refclkOk := s.pin.refclkOk, brakeLow := s.pin.brakeLow
                             tj := s.pin.tj, thbm := s.pin.thbm }
    stw := { Steward.reset with spi := s.stw.spi, recCount := s.stw.recCount }
    lib := { Lib.reset with flash := s.lib.flash, badPages := s.lib.badPages, flashPoison := s.lib.flashPoison
                            flashLife := s.lib.flashLife, flashSpent := s.lib.flashSpent, catalog := s.lib.catalog }
    err := { Err.reset with store := s.err.store, storeHeader := s.err.storeHeader }
    out := if s.host.linkUp then .link false :: s.out else s.out
    draws := s.draws, pending := s.pending }

/-- AON_RST_N_RELEASE in cold reset samples the straps, starts log time at 0 with an anchor, starts the ROM, locks debug and draws a new challenge; test mode is reported over the service port. DYNAMIC_ADDRESS_ASSIGNMENT gives the service port its address once the chip is out of cold reset. MAIN_EN rises when nothing holds the chip in standby; MAIN_PG then puts the main domains in reset; without it in time MAIN_PG_TIMEOUT drops MAIN_EN, stores a chip fault of kind 4 and holds standby until MAIN_EN_REQUEST (from R30, R36, R37, R39, R50, R58, R331, R338). -/
def Obligations.PowerComesUp : Prop :=
  (∀ (s : State) (src svc : Nat) (test : Bool), s.boot.phase = .held → src < 4 → svc < 8 →
    Runs (.aonRstNRelease src svc test) s fun t =>
      t.boot = { s.boot with strap := BitVec.ofNat 32 (src + svc * 16 + b2n test * 128), phase := .rom, kind := 0, cold := true
                             releaseNs := 0 } ∧
      t.pin = { s.pin with aonRstN := true, aonRails := true } ∧ t.time = { s.time with logNs := 0 } ∧
      t.err.challenge = Config.entropy s.draws % 2 ^ 64 ∧ t.err.unlocked = false ∧ t.err.anchorNs = 0 ∧
      t.draws = s.draws + 1 ∧ (test = true → Out.service 1 0 (leBytes 4 1) ∈ t.out) ∧
      Unchanged [.pin, .boot, .time, .err, .host, .out, .draws, .ras] s t) ∧
  (∀ (s : State) (a : Nat), s.boot.phase ≠ .held → a < 128 →
    exec (.dynamicAddressAssignment a) s = .next { s with pin := { s.pin with svcAddr := some a }, out := .i3c a :: s.out }) ∧
  (∀ s : State, mayRaiseMain s = true → s.boot.supplyHold = false → s.pin.mainEn = false →
    exec .mainEn s = .next { s with pin := { s.pin with mainEn := true } }) ∧
  (∀ s : State, s.pin.mainEn = true → s.pin.mainPg = false → s.boot.dom = .off →
    exec .mainPg s = .next { s with pin := { s.pin with mainPg := true }, boot := { s.boot with dom := .reset } }) ∧
  (∀ s : State, s.pin.mainEn = true → s.pin.mainPg = false → Runs .mainPgTimeout s fun t =>
      t.pin = { s.pin with mainEn := false, mainPg := false } ∧
      t.boot = { s.boot with supplyHold := true, dom := .off, clockOk := false } ∧
      FaultStored s t 4 ∧ Unchanged [.pin, .boot, .stw, .err, .host, .out, .draws, .ras] s t) ∧
  (∀ s : State, mayRaiseMain s = true → s.boot.supplyHold = true →
    exec .mainEnRequest s = .next { s with pin := { s.pin with mainEn := true }, boot := { s.boot with supplyHold := false } })

/-- A CLOCK_CHECK within 100 ppm without modulation lets the main domains leave reset, with grove time at 0, the pool zero and every slot free; beyond 100 ppm or with modulation they are held, a chip fault of kind 5 is stored and reported over the service port; in both cases the ports of a missing SERDES clock are dark for good, and one missing clock stores a chip fault of kind 9. HBM_TRAINED sets HBM_OK, or stores the sites that failed with a chip fault of kind 1 and its report. MAIN_SUPPLY_LOSS clears the main domains, drops MAIN_EN, stores a chip fault of kind 4 and holds standby (from R36, R50, R51, R60, R68). -/
def Obligations.MainDomainsStartAndStop : Prop :=
  (∀ (s : State) (dev : Int) (a b : Bool), s.boot.dom = .reset → dev.natAbs ≤ 100 → s.link.ports.length = 8 →
    Runs (.clockCheck dev false a b) s fun t =>
      t.pin = { s.pin with serdesA := a, serdesB := b } ∧ t.boot = { s.boot with dom := .on, clockOk := true } ∧
      t.time = { s.time with now := 0, fraction := 0 } ∧ t.mem = { s.mem with pool := [], poolPoison := [] } ∧
      t.core = { s.core with slots := [] } ∧ DarkSettled s t a b ∧ (a ≠ b → FaultStored s t 9) ∧
      (a = true → b = true → t.err = s.err ∧ t.host = s.host ∧ t.stw = s.stw ∧ t.out = s.out) ∧
      Unchanged [.pin, .boot, .time, .mem, .core, .link, .stw, .err, .host, .out, .draws, .ras] s t) ∧
  (∀ (s : State) (dev : Int) (m a b : Bool), s.boot.dom = .reset → (100 < dev.natAbs ∨ m = true) → s.link.ports.length = 8 →
    Runs (.clockCheck dev m a b) s fun t =>
      t.pin = { s.pin with serdesA := a, serdesB := b } ∧ t.boot = { s.boot with dom := .clockFault } ∧ DarkSettled s t a b ∧
      Out.service 1 5 (leBytes 4 0) ∈ t.out ∧ (a = true → b = true → FaultStored s t 5) ∧
      Unchanged [.pin, .boot, .link, .stw, .err, .host, .out, .draws, .ras] s t) ∧
  (∀ s : State, s.boot.dom = .on → s.boot.hbmOk = false → s.boot.hbmFailed = 0 →
    exec (.hbmTrained 0) s = .next { s with boot := { s.boot with hbmOk := true } }) ∧
  (∀ (s : State) (f : BitVec 8), s.boot.dom = .on → s.boot.hbmOk = false → s.boot.hbmFailed = 0 → f ≠ 0 →
    Runs (.hbmTrained f) s fun t =>
      t.boot = { s.boot with hbmFailed := f } ∧ FaultStored s t 1 ∧ Out.service 1 1 (leBytes 4 f.toNat) ∈ t.out ∧
      Unchanged [.boot, .stw, .err, .host, .out, .draws, .ras] s t) ∧
  (∀ s : State, s.pin.mainEn = true → s.pin.mainPg = true → Runs .mainSupplyLoss s fun t =>
      t.pin = { s.pin with mainEn := false, mainPg := false } ∧
      t.boot = { bootCleared s.boot with supplyHold := true, dom := .off, clockOk := false } ∧
      MainCleared s t ∧ t.link.ports = s.link.ports.map portKept ∧ FaultStored s t 4 ∧ t.fuse = s.fuse ∧
      t.stw = { s.stw with spi := t.stw.spi } ∧ t.pending = s.pending)

/-- STEWARD_START with BOOT_SRC 1 takes the host link down and enters recovery mode; with a first slot in the order of R310 that has attempts left and passes its checks, that slot's firmware starts, reads its configuration and begins the flash scan. READY makes the chip ready while its main domains run, and DRS is sent over a live link. BOOT_TIMEOUT takes the link down, stores a chip fault of kind 7 and asks for a warm reset without a flush. WINDOW_OPEN ends the flash scan with seven eighths of the NAND as capacity and the flash's own wear (log 81), opens the window where HBM trained, and leaves it closed where HBM failed (from R59, R62, R64 to R66, R68, R269, R310). -/
def Obligations.StewardBringsTheChipUp : Prop :=
  (∀ s : State, s.boot.phase = .rom → bootSrc s = 1 → Runs .stewardStart s fun t =>
      t.boot = { s.boot with phase := .recovery, slot := 2 } ∧ t.host = { s.host with linkUp := false, ldUp := 0 } ∧
      t.out = (if s.host.linkUp then [Out.link false] else []) ++ s.out ∧
      t.stw = { s.stw with spi := t.stw.spi, recCount := s.stw.recCount + 1 } ∧
      Unchanged [.boot, .stw, .host, .out, .port] s t) ∧
  (∀ (s : State) (slot : Nat) (rest : List Nat), s.boot.phase = .rom → (bootSrc s = 0 ∨ bootSrc s = 2 ∧ s.boot.cold = false) →
    bootOrder s = slot :: rest → attempts s slot < 2 → bootCheck s slot = 0 → Runs .stewardStart s fun t =>
      t.boot = { s.boot with phase := .firmware, slot := slot, cfgRead := true, cfgWrote := t.boot.cfgWrote, attA := t.boot.attA
                             attB := t.boot.attB } ∧
      t.lib = { s.lib with scanning := true } ∧
      t.stw = { s.stw with fw := t.stw.fw, spi := t.stw.spi, recCount := s.stw.recCount + 1, held := t.stw.held } ∧
      Unchanged [.boot, .lib, .stw, .err, .host, .out, .draws, .ras] s t) ∧
  (∀ s : State, s.boot.phase = .firmware → s.boot.dom = .on → s.boot.ready = false →
    exec .ready s = .next { s with boot := { s.boot with ready := true }, out := if s.host.linkUp then .drs :: s.out else s.out }) ∧
  (∀ s : State, (s.boot.phase = .rom ∨ s.boot.phase = .firmware) → s.boot.ready = false → s.boot.timedOut = false →
    Runs .bootTimeout s fun t =>
      t.boot = { s.boot with timedOut := true, warm := some { source := .fault, due := resetDue s || !timeRuns s, flush := false } } ∧
      t.host.linkUp = false ∧ t.host.ldUp = 0 ∧ FaultStored s t 7 ∧
      Unchanged [.boot, .host, .stw, .err, .out, .draws, .port, .ras, .lib, .admin] s t) ∧
  (∀ (s : State) (gib : Nat), s.boot.phase = .firmware → s.boot.dom = .on → s.lib.scanning = true → s.boot.ready = true →
    s.boot.hbmOk = true → gib ≤ 4096 → Runs (.windowOpen gib) s fun t =>
      t.lib = { s.lib with scanning := false, isOpen := true, capacity := gib * 7 / 2, life := s.lib.flashLife
                           readOnly := s.lib.flashSpent } ∧
      t.boot = { s.boot with memActive := true } ∧ Unchanged [.lib, .boot, .err, .host, .out] s t) ∧
  (∀ (s : State) (gib : Nat), s.boot.phase = .firmware → s.boot.dom = .on → s.lib.scanning = true → s.boot.ready = true →
    s.boot.hbmOk = false → s.boot.hbmFailed ≠ 0 → gib ≤ 4096 → exec (.windowOpen gib) s = .next { s with
      lib := { s.lib with scanning := false, capacity := gib * 7 / 2, life := s.lib.flashLife, readOnly := s.lib.flashSpent } })

/-- BOOT_HEALTHY with every check passed within 2,000 ms of the release makes the boot healthy and raises the SVN floor to the running image's, never lowers it, and changes no other fuse. BOOT_HEALTH_TIMEOUT appends one recovery record and asks for a warm reset without a flush; SERVICE_WARM_RESET asks for one with a recall and flush; each falls due at the next boundary, or at once while no boundaries run. WARM_RESET_ENTER of one that is due clears the main domains, runs the ROM, locks debug with a new challenge and anchors log time; the main domains leave reset at once where the clock has passed, with the ports of a missing SERDES clock dark again (from R51, R53, R55, R58, R60, R69, R311 to R313, R331, R338). -/
def Obligations.HealthyBootAndWarmReset : Prop :=
  (∀ s : State, s.boot.phase = .firmware → s.boot.healthy = false → s.boot.healthLate = false →
    s.time.logNs - s.boot.releaseNs ≤ 2000000000 → bootChecks s = true → memWf 0xFF s.stw.spi = true →
    Runs (.bootHealthy true) s fun t =>
      t.boot = { s.boot with healthy := true } ∧
      t.fuse = { s.fuse with svnBlown := max s.fuse.svnBlown (fwSvn (fwHeaderOf s s.boot.slot)) } ∧
      Unchanged [.fuse, .boot, .stw, .err, .host, .out] s t) ∧
  (∀ s : State, s.boot.phase = .firmware → s.boot.healthy = false → s.boot.healthLate = false →
    Runs .bootHealthTimeout s fun t =>
      t.boot = { s.boot with healthLate := true, warm := some { source := .fault, due := resetDue s || !timeRuns s, flush := false } } ∧
      t.stw = { s.stw with spi := t.stw.spi, recCount := s.stw.recCount + 1 } ∧
      Unchanged [.boot, .stw, .lib, .admin, .host, .err, .out, .draws] s t) ∧
  (∀ s : State, s.boot.phase ≠ .held → s.boot.warm = none → Runs .serviceWarmReset s fun t =>
      t.boot = { s.boot with warm := some { source := .rack, due := !timeRuns s, flush := true } } ∧
      Unchanged [.boot, .lib, .admin, .host, .err, .out, .draws] s t) ∧
  (∀ s : State, warmMay s = true → s.link.ports.length = 8 → Runs .warmResetEnter s fun t =>
      t.boot = { bootCleared s.boot with
        phase := .rom, kind := 1, slot := 0, releaseNs := s.time.logNs, timedOut := false, healthLate := false, cold := false
        dom := if s.boot.clockOk && s.pin.mainPg then .on else s.boot.dom } ∧
      MainCleared s t ∧
      (∀ p, p < 8 → (portOf t p).settled = (s.boot.clockOk && s.pin.mainPg && (if p < 4 then !s.pin.serdesA else !s.pin.serdesB))) ∧
      t.stw = { s.stw with fw := .idle, pathService := false, nextOffset := 0, lastCheck := 0, header := [], pldm := .idle } ∧
      t.err.challenge = Config.entropy (t.draws - 1) % 2 ^ 64 ∧ t.err.anchorNs = s.time.logNs ∧ t.fuse = s.fuse ∧
      t.pin = s.pin ∧ t.pending = s.pending)

/-- TEMPERATURE_WARNING below the trip points only updates the sensors; a reading of at least 115 degrees, or of 100 degrees for HBM, trips as THERMTRIP does: THERMTRIP_N is asserted, a chip fault of kind 6 is stored, and the main domains lose what they hold and are isolated. PWR_BRAKE_N latches the brake pulse for the governor (from R43 to R45, R302). -/
def Obligations.TemperatureTripAndBrake : Prop :=
  (∀ (s : State) (a b : Int), s.boot.phase ≠ .held → a < 115 → b < 100 →
    exec (.temperatureWarning a b) s = .next { s with pin := { s.pin with tj := a, thbm := b } }) ∧
  (∀ (s : State) (a b : Int), s.boot.phase ≠ .held → (115 ≤ a ∨ 100 ≤ b) → s.pin.thermtrip = false →
    Runs (.temperatureWarning a b) s fun t =>
      t.pin = { s.pin with thermtrip := true, tj := a, thbm := b } ∧
      t.boot = { bootCleared s.boot with dom := .isolated, clockOk := false } ∧ MainCleared s t ∧ FaultStored s t 6 ∧
      t.fuse = s.fuse ∧ t.stw = { s.stw with spi := t.stw.spi } ∧ t.pending = s.pending) ∧
  (∀ s : State, s.boot.phase ≠ .held → s.pin.thermtrip = false → Runs .thermtrip s fun t =>
      t.pin = { s.pin with thermtrip := true } ∧ t.boot = { bootCleared s.boot with dom := .isolated, clockOk := false } ∧
      MainCleared s t ∧ FaultStored s t 6 ∧ t.fuse = s.fuse ∧ t.stw = { s.stw with spi := t.stw.spi } ∧ t.pending = s.pending) ∧
  (∀ (s : State) (low : Bool), exec (.pwrBrakeN low) s = .next { s with
      pin := { s.pin with brakeLow := low }, pwr := { s.pwr with brakeLatch := true } })

/-- FUNCTION_LEVEL_RESET on a live link resets the registers and rings of every function and marks every stream of theirs to be closed, clears VF Enable, the completion timeout and the CXL.cache enable, and gives up the admin descriptor. PER_VF_RESET does the same to one VF and to no other function, or to every VF, with VF Enable cleared. FLR_COMPLETE ends the reset of a VF, or of every function, and sends its FRS (from R54, R57, R353, Table 3-2). -/
def Obligations.FunctionResets : Prop :=
  (∀ s : State, s.host.linkUp = true → s.boot.ready = true → Runs .functionLevelReset s fun t =>
      t.boot = { s.boot with kind := 2 } ∧ t.host.vfNum = 0 ∧ t.host.cto = 0 ∧ t.host.cacheEn = false ∧ t.admin = none ∧
      (∀ n, n < 256 → (fnExists s n = true ∨ (tabFind s.host.fns n).isSome = true) → fnOf t n = fnCleared (fnOf s n) true) ∧
      StreamsReset s t (allFns s) ∧
      Unchanged [.boot, .host, .port, .fn, .str, .admin, .lib, .link, .peers, .err, .out, .draws] s t) ∧
  (∀ (s : State) (n : Nat), s.host.linkUp = true → s.boot.ready = true → 1 ≤ n → n ≤ s.host.vfNum →
    Runs (.perVfReset (.one n)) s fun t =>
      fnOf t n = fnCleared (fnOf s n) true ∧ (∀ m, m ≠ n → fnOf t m = fnOf s m) ∧ StreamsReset s t [n] ∧
      Unchanged [.host, .str, .fn, .out] s t) ∧
  (∀ s : State, s.host.linkUp = true → s.boot.ready = true → Runs (.perVfReset .every) s fun t =>
      t.host.vfNum = 0 ∧ (∀ n, 1 ≤ n → n ≤ s.host.vfNum → fnOf t n = fnCleared (fnOf s n) true) ∧
      (∀ m, (m = 0 ∨ s.host.vfNum < m) → fnOf t m = fnOf s m) ∧ StreamsReset s t (rangeFrom 1 s.host.vfNum) ∧
      Unchanged [.host, .port, .str, .fn, .out] s t) ∧
  (∀ (s : State) (n : Nat), 1 ≤ n → (fnOf s n).resetting = true → (fnOf s 0).resetting = false →
    Runs (.flrComplete (.vf n)) s fun t =>
      fnOf t n = { fnOf s n with resetting := false } ∧ (∀ m, m ≠ n → fnOf t m = fnOf s m) ∧ t.out = .frs (.vf n) :: s.out ∧
      Unchanged [.host, .out, .fn] s t) ∧
  (∀ s : State, (fnOf s 0).resetting = true → Runs (.flrComplete .pf) s fun t =>
      (∀ n, n < 256 → fnOf t n = { fnOf s n with resetting := false }) ∧ (∀ m, 256 ≤ m → fnOf t m = fnOf s m) ∧
      t.out = .frs .pf :: s.out ∧ Unchanged [.host, .out, .fn] s t)

/-- LINK_TRIGGERED_RESET by PERST_N, or by a hot reset or link-down of a live link, takes the link down, resets every function and the configuration space, marks every stream of theirs to be closed, gives up the admin descriptor and counts every host served as dead; PERST_N low takes its clock with it. LD_RESET of LD0 is a link-triggered reset; that of LD1 to LD15 frees its decoder and resets its function, and its host dies where the chip serves one. PERST_N_RELEASE raises PERST_N; HOST_LINK_UP then brings the link up, outside recovery and test mode, and DRS follows on a chip that is ready (from R39, R41, R52 to R54, R59, R64, R72, R278). -/
def Obligations.HostLinkResetsAndTraining : Prop :=
  (∀ (s : State) (c : LinkCause), s.boot.phase ≠ .held → (s.host.linkUp = true ∨ c = .perst) →
    Runs (.linkTriggeredReset c) s fun t =>
      t.host.linkUp = false ∧ t.host.ldUp = 0 ∧ t.host.decoders = 0 ∧ t.host.dead = 0 ∧ t.host.vfNum = 0 ∧ t.host.cto = 0 ∧
      t.host.cacheEn = false ∧ t.host.latches = [] ∧ t.boot = { s.boot with kind := 3 } ∧ t.admin = none ∧
      t.pin = (if c = .perst then { s.pin with perstN := false, refclkOk := false } else s.pin) ∧
      (∀ n, n < 256 → fnOf t n = fnCleared (fnOf s n) false) ∧ (∀ ld, 1 ≤ ld → ld < 16 → fnOf t (256 + ld) = FnState.reset) ∧
      StreamsReset s t (allFns s) ∧
      t.lib.hostDeaths = ((List.range 16).filter (hostReaches s)).foldl (fun n _ => satAdd n 1) s.lib.hostDeaths ∧
      Unchanged [.pin, .boot, .host, .port, .fn, .str, .admin, .lib, .link, .peers, .err, .out, .draws] s t) ∧
  (∀ s : State, s.boot.phase ≠ .held → exec (.ldReset 0) s = exec (.linkTriggeredReset .hotReset) s) ∧
  (∀ (s : State) (ld : Nat), s.host.linkUp = true → 1 ≤ ld → ld < 16 → Runs (.ldReset ld) s fun t =>
      t.host.decoders = s.host.decoders &&& ~~~(ldBit ld) ∧ t.host.dead = s.host.dead &&& ~~~(ldBit ld) ∧
      fnOf t (256 + ld) = FnState.reset ∧ (∀ n, n ≠ 256 + ld → fnSet (fnOf t n) = fnSet (fnOf s n)) ∧
      t.lib.hostDeaths = (if hostReaches s ld then satAdd s.lib.hostDeaths 1 else s.lib.hostDeaths) ∧
      (hostReaches s ld = false → t.lib = s.lib ∧ t.err = s.err ∧ t.out = s.out ∧ t.admin = s.admin) ∧
      Unchanged [.host, .port, .fn, .lib, .err, .out, .admin, .draws] s t) ∧
  (∀ (s : State) (stable : Bool), exec (.perstNRelease stable) s = .next { s with
      pin := { s.pin with perstN := true, refclkOk := s.pin.refclkOk || stable } }) ∧
  (∀ s : State, s.host.linkUp = false → s.pin.perstN = true → s.pin.refclkOk = true → s.boot.dom = .on →
    s.boot.phase ≠ .recovery → testMode s = false → Runs .hostLinkUp s fun t =>
      t.host = { s.host with linkUp := true, ldUp := 0xFFFF, dead := 0 } ∧
      t.out = (if s.boot.ready then [Out.drs] else []) ++ .link true :: s.out ∧ Unchanged [.host, .out, .port] s t)

/-- CONFIG_REQUEST completes with CRS and changes nothing before the chip is ready, to the PF and to every VF number while the PF is in reset, and to a VF while that VF is in reset; to a function or LD that does not exist it is an Unsupported Request. Served, VF Enable takes a count of at most 255 from 0, the completion timeout takes its four bits, and the enable bit of a feature that the SK6 does not support stays 0; a read returns the field's value, which for the timeout ranges is range A alone, for the timeout's disable 0 and for Memory_Active_Timeout 0b000 (from R63, R66, R70, R71, R88, Table 4-15). -/
def Obligations.ConfigurationRequests : Prop :=
  (∀ (s : State) (ld fn : Nat) (op : ConfigOp), s.host.linkUp = true → s.boot.ready = false →
    exec (.configRequest ld fn op) s = .next { s with out := .config ld fn .crs 0 :: s.out }) ∧
  (∀ (s : State) (fn : Nat) (op : ConfigOp), s.host.linkUp = true → s.boot.ready = true → fn < 256 → (fnOf s 0).resetting = true →
    exec (.configRequest 0 fn op) s = .next { s with out := .config 0 fn .crs 0 :: s.out }) ∧
  (∀ (s : State) (fn : Nat) (op : ConfigOp), s.host.linkUp = true → s.boot.ready = true → (fnOf s 0).resetting = false →
    fnExists s fn = true → (fnOf s fn).resetting = true →
    exec (.configRequest 0 fn op) s = .next { s with out := .config 0 fn .crs 0 :: s.out }) ∧
  (∀ (s : State) (ld fn : Nat) (op : ConfigOp), s.host.linkUp = true → s.boot.ready = true →
    (16 ≤ ld ∨ ld ≠ 0 ∧ fn ≠ 0 ∨ ld = 0 ∧ s.host.vfNum < fn ∧ ((fnOf s 0).resetting = false ∨ 256 ≤ fn)) →
    exec (.configRequest ld fn op) s = .next { s with out := .config ld fn .unsupported 0 :: s.out }) ∧
  (∀ (s : State) (n : Nat), ConfigMay s 0 → s.host.vfNum = 0 → 0 < n → n ≤ 255 →
    exec (.configRequest 0 0 (.vfEnable n)) s = .next { s with
      host := { s.host with vfNum := n }, out := .config 0 0 .success 0 :: s.out }) ∧
  (∀ (s : State) (v : Nat), ConfigMay s 0 → exec (.configRequest 0 0 (.completionTimeout v)) s = .next { s with
      host := { s.host with cto := v % 16 }, out := .config 0 0 .success 0 :: s.out }) ∧
  (∀ (s : State) (fn : Nat) (f : HostFeature) (on : Bool), ConfigMay s fn → featureSupported f = false →
    exec (.configRequest 0 fn (.featureEnable f on)) s = .next { s with out := .config 0 fn .success 0 :: s.out }) ∧
  (∀ (s : State) (fn : Nat) (f : ConfigField), ConfigMay s fn →
    exec (.configRequest 0 fn (.read f)) s = .next { s with out := .config 0 fn .success (configValue s 0 fn f) :: s.out }) ∧
  (∀ s : State, configValue s 0 0 .timeoutRanges = 1 ∧ configValue s 0 0 .timeoutDisable = 0 ∧
    configValue s 0 0 .memoryActiveTimeout = 0 ∧ configValue s 0 0 .vfEnable = s.host.vfNum)

/-- DOORBELL_POLL sends a read of the doorbell line under a free tag, DOORBELL_INVALIDATION reads it again over CXL.cache. A read that fails leaves the function not coherent with its rings as they were; the first failure writes one record NOTE of kind 4, and a further one none; a poll that is not completed has its tag reported in AER and quarantined. Counts that were observed before change no ring; new counts for ring 0 are taken, and after an invalidation the line is held again. No stop, loss or wait of another ring is due (from R76, R77, R80, R89). -/
def Obligations.DoorbellReads : Prop :=
  (∀ (s : State) (fn tag : Nat) (r : DoorbellRead), doorbellLive s fn = true → effPoll s (fnOf s fn) = true → LogQuiet s →
    freeReadTag s.host = some tag → (r = .failed ∨ r = .timeout) → Runs (.doorbellPoll fn r) s fun t =>
      fnOf t fn = { fnOf s fn with coherent := false, readFailed := true } ∧ (∀ m, m ≠ fn → fnOf t m = fnOf s m) ∧
      ((fnOf s fn).readFailed = false → LogOne s t 0x0A13 4) ∧ ((fnOf s fn).readFailed = true → t.err = s.err) ∧
      (r = .timeout → t.host.quarantine = tabSet tag false s.host.quarantine ∧ Out.aer tag false ∈ t.out) ∧
      Out.dmaRead tag (doorbellAddress (fnOf s fn)) 64 false (readTimeoutNs s) ∈ t.out ∧
      Unchanged [.host, .err, .out, .fn] s t) ∧
  (∀ (s : State) (fn : Nat), doorbellLive s fn = true → effPoll s (fnOf s fn) = false → (fnOf s fn).coherent = true → LogQuiet s →
    Runs (.doorbellInvalidation fn .failed) s fun t =>
      fnOf t fn = { fnOf s fn with coherent := false, readFailed := true } ∧ (∀ m, m ≠ fn → fnOf t m = fnOf s m) ∧
      ((fnOf s fn).readFailed = false → LogOne s t 0x0A13 4) ∧ ((fnOf s fn).readFailed = true → t.err = s.err) ∧
      t.out = s.out ∧ Unchanged [.host, .err, .fn] s t) ∧
  (∀ (s : State) (fn w0 w1 w2 w3 : Nat), doorbellLive s fn = true → effPoll s (fnOf s fn) = true →
    (freeReadTag s.host).isSome = true → (fnOf s fn).lostEvents = 0 → (fnOf s fn).lostResults = 0 → wantFetch s fn 0 = false →
    (fn = 0 → s.admin = none ∧ wantFetch s 0 3 = false) →
    (∀ e ∈ [(0, w0), (1, w1), (2, w2), (3, w3)], ringLive (ringOf s fn e.1) = true → (ringOf s fn e.1).seen = some e.2 ∧
      e.2 ≤ (ringOf s fn e.1).devIdx + (if hostFills e.1 then ringSize (ringOf s fn e.1) else 0)) →
    Runs (.doorbellPoll fn (.counts w0 w1 w2 w3)) s fun t =>
      fnOf t fn = { fnOf s fn with coherent := false, readFailed := false } ∧ (∀ m, m ≠ fn → fnOf t m = fnOf s m) ∧
      Unchanged [.host, .out, .fn] s t) ∧
  (∀ (s : State) (fn w : Nat), doorbellLive s fn = true → (∀ r, r ≠ 0 → (ringOf s fn r).enable = false) →
    ringLive (ringOf s fn 0) = true → (fnOf s fn).rings.length = 4 → ringCount (ringOf s fn 0) ≤ w →
    w ≤ (ringOf s fn 0).devIdx + ringSize (ringOf s fn 0) →
    (effPoll s (fnOf s fn) = true → (freeReadTag s.host).isSome = true → Runs (.doorbellPoll fn (.counts w 0 0 0)) s fun t =>
      (ringOf t fn 0).seen = some w ∧ (ringOf t fn 0).devIdx = (ringOf s fn 0).devIdx ∧ (ringOf t fn 0).stopped = false ∧
      (fnOf t fn).readFailed = false ∧ Unchanged [.host, .err, .out, .fn] s t) ∧
    (effPoll s (fnOf s fn) = false → (fnOf s fn).coherent = true → Runs (.doorbellInvalidation fn (.counts w 0 0 0)) s fun t =>
      (ringOf t fn 0).seen = some w ∧ (ringOf t fn 0).devIdx = (ringOf s fn 0).devIdx ∧ (ringOf t fn 0).stopped = false ∧
      (fnOf t fn).coherent = true ∧ (fnOf t fn).readFailed = false ∧ Unchanged [.host, .err, .out, .fn] s t))

/-- DESCRIPTOR_FETCH_COMPLETE keeps a well-formed descriptor, of ring 0 with its intake and of ring 3 for the admin engine, and moves RING_DEVIDX on; a read of ring memory that fails stops its ring with reason 3, posted on the event ring or held while that is not live; a failed write of ring memory, which comes in by the same row (log 86), stops rings 1 and 2. COMPLETION_TIMEOUT reports the tag in AER and quarantines it; TAG_QUARANTINE_END frees it, and the read that waits longest is then issued; UNEXPECTED_COMPLETION is reported in AER, and logged once for a tag in quarantine (from R80, R81, R89). -/
def Obligations.DescriptorFetchAndReadTags : Prop :=
  (∀ (s : State) (fn t0 : Nat) (bytes : List Byte),
    s.host.reads.find? (fun e => e.2 == .ring fn 0) = some (t0, .ring fn 0) → (ringOf s fn 0).stale = false →
    ringLive (ringOf s fn 0) = true → (fnOf s fn).rings.length = 4 → bytes.length = 64 →
    frameCheck (BitVec.ofNat 512 (leNat bytes)) = 0 → Runs (.descriptorFetchComplete fn 0 (.ok bytes)) s fun t =>
      (fnOf t fn).fetched = (fnOf s fn).fetched ++
        [(entryIntake s (ringOf s fn 0) (ringOf s fn 0).devIdx, BitVec.ofNat 512 (leNat bytes))] ∧
      (ringOf t fn 0).devIdx = (ringOf s fn 0).devIdx + 1 ∧ (ringOf t fn 0).fetching = false ∧
      (∀ m, m ≠ fn → fnOf t m = fnOf s m) ∧ Unchanged [.host, .out] s t) ∧
  (∀ (s : State) (t0 : Nat) (bytes : List Byte),
    s.host.reads.find? (fun e => e.2 == .ring 0 3) = some (t0, .ring 0 3) → (ringOf s 0 3).stale = false →
    ringLive (ringOf s 0 3) = true → (fnOf s 0).rings.length = 4 → bytes.length = 64 →
    adminCheck (BitVec.ofNat 512 (leNat bytes)) = 0 → Runs (.descriptorFetchComplete 0 3 (.ok bytes)) s fun t =>
      (fnOf t 0).adminFetched = (fnOf s 0).adminFetched ++ [BitVec.ofNat 512 (leNat bytes)] ∧
      (ringOf t 0 3).devIdx = (ringOf s 0 3).devIdx + 1 ∧ (ringOf t 0 3).fetching = false ∧
      (∀ m, m ≠ 0 → fnOf t m = fnOf s m) ∧ Unchanged [.host, .out] s t) ∧
  (∀ (s : State) (fn r t0 : Nat), fn < 256 → (r = 0 ∨ r = 3) → (s.host.reads.find? (fun e => e.2 == .ring fn r)) = some (t0, .ring fn r) →
    (ringOf s fn r).stale = false → (fnOf s fn).rings.length = 4 → Runs (.descriptorFetchComplete fn r .error) s fun t =>
      (ringOf t fn r).stopped = true ∧ (ringOf t fn r).fetching = false ∧ (ringOf t fn r).devIdx = (ringOf s fn r).devIdx ∧
      (ringLive (ringOf s fn 2) = false → tabFind (fnOf t fn).heldStops r = some 3) ∧
      (eventRoom s fn = true → (fnOf s fn).lostEvents = 0 → s.err.lossSince = 0 →
        ∃ a e, Out.entry fn 2 (ringOf s fn 2).devIdx a e ∈ t.out ∧ fieldOf e 15 0 = 2 ∧ fieldOf e 143 128 = r + 3 * 256) ∧
      Unchanged [.host, .err, .out] s t) ∧
  (∀ (s : State) (fn r : Nat), (r = 1 ∨ r = 2) → ringLive (ringOf s fn r) = true → (fnOf s fn).resetting = false →
    (fnOf s fn).rings.length = 4 → Runs (.descriptorFetchComplete fn r .error) s fun t =>
      (ringOf t fn r).stopped = true ∧ Unchanged [.host, .err, .out] s t) ∧
  (∀ (s : State) (tag : Nat) (o : ReadOwner), tabFind s.host.reads tag = some o → Runs (.completionTimeout tag) s fun t =>
      tabFind t.host.reads tag = none ∧ tabFind t.host.quarantine tag = some false ∧ Out.aer tag false ∈ t.out ∧
      Unchanged [.host, .str, .err, .out, .fn] s t) ∧
  (∀ (s : State) (tag : Nat), Runs (.tagQuarantineEnd tag) s fun t =>
      t.host.quarantine = tabErase tag s.host.quarantine ∧
      (s.host.readWait = [] → t.host.reads = s.host.reads ∧ t.out = s.out) ∧
      (∀ o rest g, s.host.readWait = o :: rest → freeReadTag { s.host with quarantine := tabErase tag s.host.quarantine } = some g →
        t.host.readWait = rest ∧ tabFind t.host.reads g = some o) ∧ Unchanged [.host, .out] s t) ∧
  (∀ (s : State) (tag : Nat), s.host.linkUp = true → tabFind s.host.reads tag = none → tabFind s.host.quarantine tag ≠ some false →
    exec (.unexpectedCompletion tag) s = .next { s with out := .aer tag true :: s.out }) ∧
  (∀ (s : State) (tag : Nat), s.host.linkUp = true → tabFind s.host.reads tag = none → tabFind s.host.quarantine tag = some false →
    LogQuiet s → Runs (.unexpectedCompletion tag) s fun t =>
      t.out = .aer tag true :: s.out ∧ t.host = { s.host with quarantine := tabSet tag true s.host.quarantine } ∧
      LogOne s t 0x0A13 5 ∧ Unchanged [.host, .err, .out] s t)

/-- LOW_WORD_READ and HIGH_WORD_READ are both the aligned 32-bit read of an offset: it answers the register; at the low word of a 64-bit register it latches the high word, and at the high word it answers an armed latch once; a read of KNOT.DUMP_STATE and of ERR.PM_STATE clears its lost count. NARROW_ACCESS under 32 bits or not aligned, and a misaligned 32-bit access, read all ones, write nothing and log one REG_ACCESS; a 64-bit aligned read answers both words with the latches as they are. A window that is not served answers Unsupported Request. DBG_POOL_DATA_READ of the high word advances WORD while debug is unlocked, and reads 0 while it is locked; DVDBG opens the DBG block once debug is unlocked and is BYPASS before (from R2, R3, R47, R63, R333, R345). -/
def Obligations.RegisterReads : Prop :=
  (∀ (s : State) (fn off : Nat), exec (.highWordRead fn off) s = exec (.lowWordRead fn off) s) ∧
  (∀ (s : State) (fn off : Nat), barServed s fn = true → off % 4 = 0 → wideAt s fn off = none →
    off ∉ [0x50108, 0xC0014, 0xF0014] → s.host.latches.find? (isLatch fn (off - 4)) = none →
    exec (.lowWordRead fn off) s = .next { s with out := .mmio fn off .success (readReg s fn off % 2 ^ 32) :: s.out }) ∧
  (∀ (s : State) (fn off x : Nat), barServed s fn = true → off % 4 = 0 → wideAt s fn off = some x → off ∉ [0x50108, 0xC0014, 0xF0014] →
    exec (.lowWordRead fn off) s = .next { s with
      host := { s.host with latches := s.host.latches.filter (fun l => !isLatch fn off l) ++
        [{ fn := windowFn fn, offset := off, high := BitVec.ofNat 32 (x / 2 ^ 32) }] }
      out := .mmio fn off .success (readReg s fn off % 2 ^ 32) :: s.out }) ∧
  (∀ (s : State) (fn off : Nat) (l : Latch), barServed s fn = true → off % 4 = 0 → 4 ≤ off → wideAt s fn off = none →
    off ∉ [0x50108, 0xC0014, 0xF0014] → s.host.latches.find? (isLatch fn (off - 4)) = some l →
    exec (.highWordRead fn off) s = .next { s with
      host := { s.host with latches := s.host.latches.filter (fun l => !isLatch fn (off - 4) l) }
      out := .mmio fn off .success (latchWord s fn off l % 2 ^ 32) :: s.out }) ∧
  (∀ s : State, barServed s 0 = true → s.host.latches = [] → exec (.lowWordRead 0 0x50108) s = .next { s with
      knot := { s.knot with dumpsLost := 0 }, out := .mmio 0 0x50108 .success (readReg s 0 0x50108 % 2 ^ 32) :: s.out }) ∧
  (∀ s : State, barServed s 0 = true → s.host.latches = [] → exec (.lowWordRead 0 0xC0014) s = .next { s with
      err := { s.err with pmLost := 0 }, out := .mmio 0 0xC0014 .success (readReg s 0 0xC0014 % 2 ^ 32) :: s.out }) ∧
  (∀ (s : State) (fn off width : Nat) (w : Option Nat), barServed s fn = true → width < 32 ∨ off % (width / 8) ≠ 0 → LogQuiet s →
    Runs (.narrowAccess fn off width w) s fun t =>
      t.out = (if w.isSome then s.out else .mmio fn off .success (2 ^ width - 1) :: s.out) ∧ t.host = s.host ∧
      LogOne s t 0x0A11 (off % 2 ^ 26 + b2n w.isSome * 2 ^ 26 +
        b2n (decide (1 ≤ windowFn fn) && decide (windowFn fn < 256)) * 2 ^ 27) ∧ Unchanged [.err, .out] s t) ∧
  (∀ (s : State) (fn off : Nat) (v : Reg), off % 4 ≠ 0 →
    exec (.lowWordRead fn off) s = exec (.narrowAccess fn off 32 none) s ∧
    exec (.registerWrite fn off v) s = exec (.narrowAccess fn off 32 (some v.toNat)) s) ∧
  (∀ (s : State) (fn off : Nat), barServed s fn = true → off % 8 = 0 → off ∉ [0x50108, 0xC0010, 0xF0010] →
    exec (.narrowAccess fn off 64 none) s = .next { s with
      out := .mmio fn off .success (readReg s fn off + readReg s fn (off + 4) * 2 ^ 32) :: s.out }) ∧
  (∀ (s : State) (fn off : Nat), s.host.linkUp = true → barServed s fn = false → fn ≠ jtagFn → fn ≠ serviceFn →
    exec (.lowWordRead fn off) s = .next { s with out := .mmio fn off .unsupported 0 :: s.out }) ∧
  (∀ s : State, barServed s 0 = true → s.err.unlocked = true → Runs .dbgPoolDataRead s fun t =>
      t.dbg = { s.dbg with poolAddr := (s.dbg.poolAddr + 1) % 2 ^ 24 } ∧
      t.out = .mmio 0 0xF0014 .success (match s.host.latches.find? (isLatch 0 0xF0010) with
        | some l => l.high.toNat
        | none => readReg s 0 0xF0014 % 2 ^ 32) :: s.out ∧
      t.host = { s.host with latches := s.host.latches.filter (fun l => !isLatch 0 0xF0010 l) } ∧
      Unchanged [.host, .out, .dbg] s t) ∧
  (∀ s : State, barServed s 0 = true → s.err.unlocked = false → Runs .dbgPoolDataRead s fun t =>
      t.out = .mmio 0 0xF0014 .success 0 :: s.out ∧ Unchanged [.host, .out] s t) ∧
  (∀ s : State, exec .dvdbg s = .next { s with
      dbg := { s.dbg with dvdbg := s.err.unlocked, ir := if s.err.unlocked then .dvdbg else .bypass }
      out := .jtag s.err.unlocked :: s.out })

/-- REGISTER_WRITE to a window that is not served changes nothing; TICK.PERIOD takes 4 to 160 quarters while no plan stands, while one stands it takes no other value, and another value is ignored and logged; DBG writes are ignored and logged while debug is locked; a 64-bit aligned write takes both words. RING_ENABLE of a disabled ring with its doorbell address set starts it at entry 0 with the size given, also the event ring where nothing is held for it; while a fetch of an earlier enable is in flight the ring waits for it; a held RING_STOPPED is the first entry of an event ring enabled again. RING_DISABLE empties the ring, keeps STOPPED, and logs a size that differs; RING_DEVIDX is 0 once no fetch is in flight (from R2, R63, R74, R75, R80, R107, R345, R347). -/
def Obligations.RegisterWritesAndRings : Prop :=
  (∀ (s : State) (fn off : Nat) (v : Reg), s.host.linkUp = true → barServed s fn = false → fn ≠ jtagFn → fn ≠ serviceFn →
    exec (.registerWrite fn off v) s = .next { s with out := .mmio fn off .unsupported 0 :: s.out }) ∧
  (∀ (s : State) (v : Reg), barServed s 0 = true → s.core.standby = none → s.core.active = none → s.time.st = .unsync →
    4 ≤ v.toNat % 256 → v.toNat % 256 ≤ 160 →
    exec (.registerWrite 0 0x30000 v) s = .next { s with tick := { s.tick with quarters := v.toNat % 256 } }) ∧
  (∀ (s : State) (v : Reg), barServed s 0 = true → (s.core.standby.isSome = true ∨ s.core.active.isSome = true) → LogQuiet s →
    Runs (.registerWrite 0 0x30000 v) s fun t =>
      (v.toNat % 256 = s.tick.quarters → t = s) ∧ (v.toNat % 256 ≠ s.tick.quarters → LogOne s t 0x0A11 (0x30000 + 2 ^ 26)) ∧
      Unchanged [.err] s t) ∧
  (∀ (s : State) (v : Reg), barServed s 0 = true → s.core.standby = none → s.core.active = none →
    (v.toNat % 256 < 4 ∨ 160 < v.toNat % 256) → LogQuiet s → Runs (.registerWrite 0 0x30000 v) s fun t =>
      LogOne s t 0x0A12 (0x30000 + 2 ^ 26) ∧ Unchanged [.err] s t) ∧
  (∀ (s : State) (v : Reg), barServed s 0 = true → s.err.unlocked = false → LogQuiet s →
    Runs (.registerWrite 0 0xF0008 v) s fun t => LogOne s t 0x0A11 (0xF0008 + 2 ^ 26) ∧ Unchanged [.err] s t) ∧
  (∀ (s : State) (fn v : Nat), 1 ≤ fn → fn < 256 → barServed s fn = true → anyRing (fnOf s fn) = false →
    Runs (.narrowAccess fn 8 64 (some v)) s fun t =>
      fnOf t fn = { fnOf s fn with dbLo := BitVec.ofNat 32 (v % 2 ^ 32 / 64 * 64), dbHi := BitVec.ofNat 32 (v / 2 ^ 32) } ∧
      (∀ m, m ≠ fn → fnOf t m = fnOf s m) ∧ Unchanged [.host, .fn] s t) ∧
  (∀ (s : State) (fn r log2 : Nat), barServed s fn = true → r < ringCount? fn → (fnOf s fn).rings.length = 4 →
    (ringOf s fn r).enable = false → 6 ≤ log2 → log2 ≤ 16 → noDoorbell (fnOf s fn) = false →
    (r = 2 → (fnOf s fn).heldStops = [] ∧ (fn = 0 → s.admin = none ∧ s.err.held = [] ∧ s.stw.held = [])) →
    Runs (.ringEnable fn r log2) s fun t =>
      ringOf t fn r = (if (ringOf s fn r).fetching then { ringOf s fn r with log2 := log2, enable := true }
        else { ringFresh (ringOf s fn r) with log2 := log2, enable := true }) ∧
      ((ringOf s fn r).fetching = false → (fnOf t fn).coherent = false) ∧
      (∀ q, q ≠ r → ringOf t fn q = ringOf s fn q) ∧ (∀ m, m ≠ fn → fnOf t m = fnOf s m) ∧ Unchanged [.host, .fn] s t) ∧
  (∀ (s : State) (fn log2 q reason : Nat), 1 ≤ fn → fn < 256 → barServed s fn = true → (fnOf s fn).rings.length = 4 →
    (ringOf s fn 2).enable = false → (ringOf s fn 2).fetching = false → 6 ≤ log2 → log2 ≤ 16 → noDoorbell (fnOf s fn) = false →
    (fnOf s fn).heldStops = [(q, reason)] → (fnOf s fn).lostEvents = 0 → q < 4 → reason < 4 →
    Runs (.ringEnable fn 2 log2) s fun t =>
      (∃ a e, Out.entry fn 2 0 a e ∈ t.out ∧ fieldOf e 15 0 = 2 ∧ fieldOf e 143 128 = q + reason * 256) ∧
      (ringOf t fn 2).devIdx = 1 ∧ (fnOf t fn).heldStops = [] ∧ Unchanged [.host, .out, .fn] s t) ∧
  (∀ (s : State) (fn r log2 : Nat), barServed s fn = true → r < ringCount? fn → (fnOf s fn).rings.length = 4 →
    (ringOf s fn r).enable = true → LogQuiet s → Runs (.ringDisable fn r log2) s fun t =>
      ringOf t fn r = { ringOf s fn r with enable := false, seen := none, marks := [], stale := (ringOf s fn r).fetching
                                           devIdx := if (ringOf s fn r).fetching then (ringOf s fn r).devIdx else 0 } ∧
      (log2 % 32 = (ringOf s fn r).log2 → t.err = s.err) ∧
      (log2 % 32 ≠ (ringOf s fn r).log2 → LogOne s t 0x0A11 (ctrlOffset fn r + 2 ^ 26 + b2n (decide (1 ≤ fn)) * 2 ^ 27)) ∧
      (∀ q, q ≠ r → ringOf t fn q = ringOf s fn q) ∧ (∀ m, m ≠ fn → fnOf t m = fnOf s m) ∧ Unchanged [.host, .fn, .err] s t)

/-- HOLD := 1 is taken only with debug unlocked and no other tenant enabled, and waits for its boundary; it is otherwise ignored; HOLD := 0 is always taken. In debug-hold KNOT_DBG_SET writes a knot and KNOT_DBG_ADD adds to it, an epoch knot modulo 2^16 and a credit knot up to its LIMIT, beyond which the write is ignored; outside debug-hold or while debug is locked both are ignored (from R186, R187). -/
def Obligations.DebugHoldAndKnotWrites : Prop :=
  (∀ s : State, barServed s 0 = true → s.err.unlocked = true → otherTenantEnabled s = false →
    exec (.hold true) s = .next { s with knot := { s.knot with holdReq := some true } }) ∧
  (∀ s : State, barServed s 0 = true → exec (.hold false) s = .next { s with knot := { s.knot with holdReq := some false } }) ∧
  (∀ s : State, barServed s 0 = true → s.err.unlocked = false ∨ otherTenantEnabled s = true →
    Runs (.hold true) s fun t => Unchanged [.host, .err, .out] s t) ∧
  (∀ (s : State) (k v : Nat), barServed s 0 = true → s.knot.hold = true → s.err.unlocked = true → k < 32 → s.knot.vals.length = 48 →
    (Runs (.knotDbgSet k v) s fun t =>
      knotOf t k = v % 65536 ∧ (∀ j, j ≠ k → knotOf t j = knotOf s j) ∧ Unchanged [.knot, .core] s t) ∧
    (Runs (.knotDbgAdd k v) s fun t =>
      knotOf t k = (knotOf s k + v % 65536) % 65536 ∧ (∀ j, j ≠ k → knotOf t j = knotOf s j) ∧ Unchanged [.knot, .core] s t)) ∧
  (∀ (s : State) (k v : Nat), barServed s 0 = true → s.knot.hold = true → s.err.unlocked = true → 32 ≤ k → k < 48 →
    s.knot.vals.length = 48 → knotLimit s k ≠ 0 → (∀ q, q < 8 → (queueOf s q).knot = none) →
    (v % 65536 ≤ knotLimit s k → Runs (.knotDbgSet k v) s fun t =>
      knotOf t k = v % 65536 ∧ (∀ j, j ≠ k → knotOf t j = knotOf s j) ∧ Unchanged [.knot, .core] s t) ∧
    (knotOf s k + v % 65536 ≤ knotLimit s k → Runs (.knotDbgAdd k v) s fun t =>
      knotOf t k = knotOf s k + v % 65536 ∧ (∀ j, j ≠ k → knotOf t j = knotOf s j) ∧ Unchanged [.knot, .core] s t)) ∧
  (∀ (s : State) (k v : Nat), barServed s 0 = true → s.knot.hold = true → s.err.unlocked = true → 32 ≤ k → k < 48 →
    (knotLimit s k = 0 ∨ knotLimit s k < v % 65536) →
    (Runs (.knotDbgSet k v) s fun t => Unchanged [.host, .err, .out] s t) ∧
    (Runs (.knotDbgAdd k v) s fun t => Unchanged [.host, .err, .out] s t)) ∧
  (∀ (s : State) (k v : Nat), barServed s 0 = true → s.knot.hold = false ∨ s.err.unlocked = false →
    (Runs (.knotDbgSet k v) s fun t => Unchanged [.host, .err, .out] s t) ∧
    (Runs (.knotDbgAdd k v) s fun t => Unchanged [.host, .err, .out] s t))

/-- A descriptor at the front of its function whose tenant check fails changes no stream, no tenant record, no key, no plan and no memory, and its result with that status is written where the result ring is live with an entry free, for each of the six ring 0 commands. OPEN that passes takes the next fresh stream ID, or the one released longest ago when none is left: that stream becomes OPEN with the class asked for, owned by the function's tenant, and no other changes (from R81, R95, R113). -/
def Obligations.RefusalsAndOpens : Prop :=
  (∀ (s : State) (fn k : Nat) (d : Desc) (rest : List (Nat × Desc)), (fnOf s fn).fetched = (k, d) :: rest →
      (fnOf s fn).resetting = false → tenantCheck s fn d (intakeNow s k) ≠ 0 →
      ∀ c, (dOpcode d = 1 ∧ c = .frame fn d ∨ dOpcode d = 2 ∧ c = .openStream fn d ∨ dOpcode d = 3 ∧ c = .bind fn d ∨
          dOpcode d = 4 ∧ c = .pause fn d ∨ dOpcode d = 5 ∧ c = .resume fn d ∨ dOpcode d = 6 ∧ c = .close fn d) →
        Runs c s fun t =>
          (ringLive (ringOf s fn 1) = true → 1 ≤ ringFree (ringOf s fn 1) → ∃ a e,
            Out.entry fn 1 (ringOf s fn 1).devIdx a e ∈ t.out ∧ fieldOf e 95 88 = tenantCheck s fn d (intakeNow s k) ∧
              fieldOf e 7 0 = dOpcode d ∧ fieldOf e 447 384 = dCookie d) ∧
          Unchanged [.host, .err, .out] s t) ∧
  (∀ (s : State) (fn k i : Nat) (d : Desc) (rest : List (Nat × Desc)), (fnOf s fn).fetched = (k, d) :: rest →
      (fnOf s fn).resetting = false → dOpcode d = 2 → tenantCheck s fn d (intakeNow s k) = 0 → freeId s = some i →
      Runs (.openStream fn d) s fun t =>
        streamOf t i = { Stream.reset with st := .opened, vst := .opened, cls := dArg0 d % 4, tenant := fn, openTick := stampTick s } ∧
        (∀ j, j ≠ i → streamOf t j = streamOf s j) ∧ t.str.ctl = s.str.ctl ∧
        (s.str.fresh < 65536 → i = s.str.fresh ∧ t.str.fresh = s.str.fresh + 1 ∧ t.str.released = s.str.released) ∧
        (65536 ≤ s.str.fresh → s.str.released = i :: t.str.released ∧ t.str.fresh = s.str.fresh) ∧
        Unchanged [.host, .str, .err, .out] s t)

/-- BIND, PAUSE, RESUME and CLOSE that pass their checks change the validation state of their stream at once, wait in the order of acceptance for the boundary that ends their intake, and change no other stream; a BIND also passes the checks of R115, and a CLOSE shows CLOSING from then on (from R112, R114 to R117, R352). -/
def Obligations.ControlDescriptorsWaitForTheirBoundary : Prop :=
  ∀ (s : State) (fn k : Nat) (d : Desc) (rest : List (Nat × Desc)), (fnOf s fn).fetched = (k, d) :: rest →
    (fnOf s fn).resetting = false → tenantCheck s fn d (intakeNow s k) = 0 →
    (dOpcode d = 3 → (streamOf s (dStream d)).vst = .opened ∨ (streamOf s (dStream d)).vst = .paused →
      bindCheck s (dStream d) (dArg0 d) (intakeNow s k) = 0 → Runs (.bind fn d) s fun t =>
        streamOf t (dStream d) = { streamOf s (dStream d) with vst := .bound, vmodel := dArg0 d } ∧
        t.str.ctl = s.str.ctl ++ [ctlLeft s fn d 3 (dArg0 d) (intakeNow s k)] ∧
        (∀ j, j ≠ dStream d → streamOf t j = streamOf s j) ∧ Unchanged [.host, .str, .err, .out] s t) ∧
    (dOpcode d = 4 → (streamOf s (dStream d)).vst ≠ .closing → (streamOf s (dStream d)).vst ≠ .closed → Runs (.pause fn d) s fun t =>
        streamOf t (dStream d) = { streamOf s (dStream d) with vst := .paused } ∧
        t.str.ctl = s.str.ctl ++ [ctlLeft s fn d 4 0 (intakeNow s k)] ∧
        (∀ j, j ≠ dStream d → streamOf t j = streamOf s j) ∧ Unchanged [.host, .str, .err, .out] s t) ∧
    (dOpcode d = 5 → (streamOf s (dStream d)).vst = .paused ∨ (streamOf s (dStream d)).vst = .bound → Runs (.resume fn d) s fun t =>
        streamOf t (dStream d) = { streamOf s (dStream d) with
          vst := if (streamOf s (dStream d)).vst = .paused ∧ (streamOf s (dStream d)).vmodel = 0 then .opened else .bound } ∧
        t.str.ctl = s.str.ctl ++ [ctlLeft s fn d 5 0 (intakeNow s k)] ∧
        (∀ j, j ≠ dStream d → streamOf t j = streamOf s j) ∧ Unchanged [.host, .str, .err, .out] s t) ∧
    (dOpcode d = 6 → (streamOf s (dStream d)).vst ≠ .closing → (streamOf s (dStream d)).vst ≠ .closed → Runs (.close fn d) s fun t =>
        streamOf t (dStream d) = { streamOf s (dStream d) with vst := .closing, st := .closing } ∧
        t.str.ctl = s.str.ctl ++ [ctlLeft s fn d 6 0 (intakeNow s k)] ∧
        (∀ j, j ≠ dStream d → streamOf t j = streamOf s j) ∧ Unchanged [.host, .str, .err, .out] s t)

/-- FRAME of a bound stream, in order or past missing ones and with room, waits with its stream, moves E past its SEQ and has its payload read. PAYLOAD_FETCH_COMPLETE gives it its bytes; PAYLOAD_FETCH_FAIL drops it and the later frames of its intake, returns E to its SEQ and writes DMA_ERROR where the result ring is live with an entry free; for a stream that a reset is closing it ends the read alone (from R78, R118 to R121). -/
def Obligations.FramesAndTheirPayloads : Prop :=
  (∀ (s : State) (fn k : Nat) (d : Desc) (rest : List (Nat × Desc)), (fnOf s fn).fetched = (k, d) :: rest →
    (fnOf s fn).resetting = false → tenantCheck s fn d (intakeNow s k) = 0 → dOpcode d = 1 →
    (streamOf s (dStream d)).vst = .bound → seqAhead (dSeq d) (streamOf s (dStream d)).nextSeq < 32768 →
    frameRoom (streamOf s (dStream d)) (intakeNow s k) = 0 → Runs (.frame fn d) s fun t =>
      streamOf t (dStream d) = { streamOf s (dStream d) with
        pending := (streamOf s (dStream d)).pending ++ [{ ord := s.str.nextOrd, seq := dSeq d, cookie := dCookie d, addr := dAddr d,
                                                          len := dLen d, eou := dEou d, intake := intakeNow s k, age := 0, payload := none }]
        nextSeq := (dSeq d + 1) % 65536 } ∧
      (∀ j, j ≠ dStream d → streamOf t j = streamOf s j) ∧
      (readOut t (.payload (dStream d) (dSeq d)) = true ∨ ReadOwner.payload (dStream d) (dSeq d) ∈ t.host.readWait) ∧
      Unchanged [.host, .str, .err, .out] s t) ∧
  (∀ (s : State) (i q : Nat) (bytes : List Byte) (f : Pending), readOut s (.payload i q) = true → fetching s i q = some f →
    Runs (.payloadFetchComplete i q bytes) s fun t =>
      streamOf t i = { streamOf s i with pending := (streamOf s i).pending.map (fun g =>
        if g.ord = f.ord then { g with payload := some (padTo f.len bytes) } else g) } ∧
      (∀ j, j ≠ i → streamOf t j = streamOf s j) ∧ Unchanged [.host, .str, .out] s t) ∧
  (∀ (s : State) (i q : Nat) (f : Pending), readOut s (.payload i q) = true → fetching s i q = some f →
    (streamOf s i).ending = none → Runs (.payloadFetchFail i q) s fun t =>
      streamOf t i = { streamOf s i with nextSeq := f.seq, pending := (streamOf s i).pending.filter (fun g =>
        g.ord != f.ord && !(g.intake == f.intake && decide (f.ord < g.ord))) } ∧
      (∀ j, j ≠ i → streamOf t j = streamOf s j) ∧
      (i < 65536 → q < 65536 → ringLive (ringOf s (streamOf s i).tenant 1) = true → 1 ≤ ringFree (ringOf s (streamOf s i).tenant 1) →
        ∃ a e, Out.entry (streamOf s i).tenant 1 (ringOf s (streamOf s i).tenant 1).devIdx a e ∈ t.out ∧ fieldOf e 95 88 = 4) ∧
      Unchanged [.host, .str, .out] s t) ∧
  (∀ (s : State) (i q : Nat), readOut s (.payload i q) = true → (streamOf s i).ending.isSome = true →
    Runs (.payloadFetchFail i q) s fun t => t.str = s.str ∧ t.err = s.err ∧ Unchanged [.host, .out] s t)

/-- NOP does nothing but complete with OK. A completed admin descriptor touches only the host port, the log, what is sent and the admin engine; with an entry to spare on T0's event ring and no event lost, its ADMIN_DONE is the next entry written there and carries its COOKIE, its STATUS and its DETAIL, and the engine is free; without one it waits (from R82, Table 4-9, Table 4-11). -/
def Obligations.AdminDoneEntry : Prop :=
  (∀ (s : State) (d : Desc), AdminMay s d 1 → exec (.nop d) s = .next (adminDone (adminTaken s) d 0 0)) ∧
  (∀ (s : State) (d : Desc) (st dt : Nat), Unchanged [.host, .err, .out, .admin] s (adminDone s d st dt)) ∧
  (∀ (s : State) (d : Desc) (st dt : Nat), (fnOf s 0).lostEvents = 0 → eventRoom s 0 = true → st < 256 → dt < 2 ^ 192 →
    ∃ a e, Out.entry 0 2 (ringOf s 0 2).devIdx a e ∈ (adminDone s d st dt).out ∧ fieldOf e 15 0 = 1 ∧ fieldOf e 95 88 = st ∧
      fieldOf e 319 128 = dt ∧ fieldOf e 447 384 = fieldOf d 511 448 ∧ (adminDone s d st dt).admin = none) ∧
  (∀ (s : State) (d : Desc) (st dt : Nat), (fnOf s 0).lostEvents = 0 → eventRoom s 0 = false →
    adminDone s d st dt = { s with admin := some { d := d, work := .finish st dt none } })

/-- PLAN_LOAD while a plan is armed is PLAN_PENDING; an image that passes every check is placed in the standby buffer, loaded, and a refused one leaves it as it was; a read of the buffer that fails completes with DMA_ERROR, or with DMA_TIMEOUT and the tag quarantined, and with no tag free the descriptor waits. PLAN_COMMIT that passes every check arms the plan for its boundary where the plan has no other member, and waits for the other members' checks where none has been heard; one that fails a check completes with its status. PLAN_CANCEL empties the standby buffer, and is CANCEL_NONE without a plan and CANCEL_TOO_LATE for one armed whose boundary is no more than 100 microseconds away (from R89, R145 to R147, R228, Table 4-12). -/
def Obligations.PlanCommands : Prop :=
  (∀ (s : State) (d : Desc) (r : DmaRead), AdminMay s d 0x10 → s.core.armed = true →
    exec (.planLoad d r) s = .next (adminDone (adminTaken s) d 0xC7 0)) ∧
  (∀ (s : State) (d : Desc) (b : List Byte) (p : Plan), BufferMay s d 0x10 → s.core.armed = false → b.length = aLen d →
    planCheck s (aLen d) b = .ok p → Runs (.planLoad d (.ok b)) s fun t =>
      t.core = { s.core with standby := some p, armed := false } ∧ t.mem.pool = memWrite 0 s.mem.pool (planBase (standbyBuffer s)) b ∧
      t.mem.hbm = s.mem.hbm ∧ Unchanged [.core, .mem, .host, .err, .out, .admin, .plan] s t) ∧
  (∀ (s : State) (d : Desc) (b : List Byte) (e : Nat × Nat), BufferMay s d 0x10 → s.core.armed = false → b.length = aLen d →
    planCheck s (aLen d) b = .error e → exec (.planLoad d (.ok b)) s = .next (adminDone (adminRead s d) d e.1 e.2)) ∧
  (∀ (s : State) (d : Desc), BufferMay s d 0x10 → s.core.armed = false →
    exec (.planLoad d .error) s = .next (adminDone (adminRead s d) d 4 0) ∧
    (∀ g, freeReadTag s.host = some g → Runs (.planLoad d .timeout) s fun t =>
      tabFind t.host.quarantine g = some false ∧ Out.aer g false ∈ t.out ∧ t.core = s.core ∧
        Unchanged [.host, .err, .out, .admin] s t)) ∧
  (∀ (s : State) (d : Desc) (r : DmaRead), AdminMay s d 0x10 → s.core.armed = false → freeReadTag s.host = none →
    Runs (.planLoad d r) s fun t => (fnOf t 0).adminFetched = (fnOf s 0).adminFetched ∧ Unchanged [.host, .err, .out] s t) ∧
  (∀ (s : State) (d : Desc), AdminMay s d 0x11 → commitCheck s (aArg0 d) = 0 → standbyPartners s = [] →
    Runs (.planCommit d) s fun t =>
      t.core.armed = true ∧ t.core.commitN = aArg0 d ∧ t.core.active = s.core.active ∧ t.core.queues = s.core.queues ∧
      t.core.standby = s.core.standby.map (fun p => { p with fixedFor := fixedTenants s }) ∧
      Unchanged [.core, .host, .err, .out, .admin, .plan] s t) ∧
  (∀ (s : State) (d : Desc), AdminMay s d 0x11 → commitCheck s (aArg0 d) = 0 → standbyPartners s ≠ [] → s.core.heard = [] →
    Runs (.planCommit d) s fun t =>
      t.admin = some { d := d, work := .commit (aArg0 d) } ∧ t.core = s.core ∧ Unchanged [.admin, .host, .link, .out] s t) ∧
  (∀ (s : State) (d : Desc), AdminMay s d 0x11 → commitCheck s (aArg0 d) ≠ 0 →
    exec (.planCommit d) s = .next (adminDone (adminTaken s) d (commitCheck s (aArg0 d)) 0)) ∧
  (∀ (s : State) (d : Desc), AdminMay s d 0x12 → s.core.standby.isSome = true → cancelTooLate s = false →
    Runs (.planCancel d) s fun t =>
      t.core = { s.core with standby := none, armed := false, commitN := 0 } ∧ (s.core.armed = false → t.link = s.link) ∧
      Unchanged [.core, .host, .err, .out, .admin, .plan, .link, .lib] s t) ∧
  (∀ (s : State) (d : Desc), AdminMay s d 0x12 → s.core.standby = none →
    exec (.planCancel d) s = .next (adminDone (adminTaken s) d 0xC0 0)) ∧
  (∀ (s : State) (d : Desc), AdminMay s d 0x12 → s.core.standby.isSome = true → cancelTooLate s = true →
    exec (.planCancel d) s = .next (adminDone (adminTaken s) d 0xC1 0))

/-- KEY_LOAD with an empty wrapping slot is refused, and a slot that a plan names is not changed; a wrapped key that does not unwrap, or whose plaintext fails its checks, is refused; one that passes fills its slot at the ADMIN_DONE, with a fresh salt, and the slot keeps what it held while the ADMIN_DONE waits. KEY_CLEAR empties a slot that no plan names. No other slot and no tenant record changes (from R97, R98, R199). -/
def Obligations.KeySlots : Prop :=
  (∀ (s : State) (d : Desc) (b kek w pt : List Byte), BufferMay s d 0x20 → b.length = aLen d →
    (bitsOf (aArg0 d) 18 16 = 7 ∨ (keyOf s (256 + bitsOf (aArg0 d) 18 16)).isSome = true) → keyInUse s (aArg0 d % 512) = false →
    keyWrap s (aArg0 d % 512) (bitsOf (aArg0 d) 18 16) b = some (kek, w) → kwUnwrap kek w = some pt →
    keyPlainOk s (aArg0 d % 512) pt = true → keySpareOk (bitsOf (aArg0 d) 18 16) b = true → (fnOf s 0).lostEvents = 0 →
    Runs (.keyLoad d (.ok b)) s fun t =>
      (eventRoom s 0 = true → keyOf t (aArg0 d % 512) = some { key := pt.take 32, keyId := leAt pt 32 4, owner := leAt pt 36 1
                                                               salt := Config.entropy s.draws % 2 ^ 27 }) ∧
      (eventRoom s 0 = false → t.ten = s.ten ∧ t.admin.isSome = true) ∧
      (∀ k, k ≠ aArg0 d % 512 → keyOf t k = keyOf s k) ∧ t.ten.recs = s.ten.recs ∧ t.draws = s.draws + 1 ∧
      Unchanged [.ten, .host, .err, .out, .admin, .draws] s t) ∧
  (∀ (s : State) (d : Desc) (r : DmaRead), AdminMay s d 0x20 → bitsOf (aArg0 d) 18 16 ≠ 7 → keyOf s (256 + bitsOf (aArg0 d) 18 16) = none →
    exec (.keyLoad d r) s = .next (adminDone (adminTaken s) d 0x88 0)) ∧
  (∀ (s : State) (d : Desc) (r : DmaRead), AdminMay s d 0x20 →
    (bitsOf (aArg0 d) 18 16 = 7 ∨ (keyOf s (256 + bitsOf (aArg0 d) 18 16)).isSome = true) → keyInUse s (aArg0 d % 512) = true →
    exec (.keyLoad d r) s = .next (adminDone (adminTaken s) d 0x87 0)) ∧
  (∀ (s : State) (d : Desc) (b kek w : List Byte), BufferMay s d 0x20 → b.length = aLen d →
    (bitsOf (aArg0 d) 18 16 = 7 ∨ (keyOf s (256 + bitsOf (aArg0 d) 18 16)).isSome = true) → keyInUse s (aArg0 d % 512) = false →
    keyWrap s (aArg0 d % 512) (bitsOf (aArg0 d) 18 16) b = some (kek, w) →
    (kwUnwrap kek w = none → exec (.keyLoad d (.ok b)) s = .next (adminDone (adminRead s d) d 0x85 0)) ∧
    (∀ pt, kwUnwrap kek w = some pt → (keyPlainOk s (aArg0 d % 512) pt && keySpareOk (bitsOf (aArg0 d) 18 16) b) = false →
      exec (.keyLoad d (.ok b)) s = .next (adminDone (adminRead s d) d 0x86 0))) ∧
  (∀ (s : State) (d : Desc), AdminMay s d 0x21 → keyInUse s (aArg0 d) = false → Runs (.keyClear d) s fun t =>
      keyOf t (aArg0 d) = none ∧ (∀ k, k ≠ aArg0 d → keyOf t k = keyOf s k) ∧ t.ten.recs = s.ten.recs ∧
      Unchanged [.ten, .host, .err, .out, .admin] s t) ∧
  (∀ (s : State) (d : Desc), AdminMay s d 0x21 → keyInUse s (aArg0 d) = true →
    exec (.keyClear d) s = .next (adminDone (adminTaken s) d 0x87 0))

/-- TENANT_SET whose buffer breaks a rule of Table 5-2 is TENANT_BAD, and one whose charges exceed 65,536 is QUOTA_OVERCOMMIT; one that keeps or makes its tenant enabled gives it, at the ADMIN_DONE, the fields of the buffer and changes no other record; while the ADMIN_DONE waits, the classes, the quotas and ENABLED stay; a disable waits for a boundary while they are generated, and closes the tenant's streams at once while none is. TENANT_QUARANTINE, TENANT_RELEASE and TENANT_EVICT wait for a boundary while they are generated; while none is they take effect at once on the tenant named: its streams paused, its quarantine ended, or its streams closed, its record disabled and the keys it owns cleared but for those that a plan names (from R93, R94, R106, R351). -/
def Obligations.TenantRecords : Prop :=
  (∀ (s : State) (d : Desc) (b : List Byte), BufferMay s d 0x22 → b.length = aLen d → tsBad s b = true →
    exec (.tenantSet d (.ok b)) s = .next (adminDone (adminRead s d) d 0x8A 0)) ∧
  (∀ (s : State) (d : Desc) (b : List Byte), BufferMay s d 0x22 → b.length = aLen d → tsBad s b = false → 65536 < tsSum s b →
    exec (.tenantSet d (.ok b)) s = .next (adminDone (adminRead s d) d 0x89 0)) ∧
  (∀ (s : State) (d : Desc) (b : List Byte), BufferMay s d 0x22 → b.length = aLen d → tsBad s b = false → tsSum s b ≤ 65536 →
    tsEnabled b = true → (fnOf s 0).lostEvents = 0 → Runs (.tenantSet d (.ok b)) s fun t =>
      (eventRoom s 0 = true → tenOf t (tsTenant b) = { tenOf s (tsTenant b) with
        enabled := true, fixedSlot := bitAt (leAt b 1 1) 1, classes := BitVec.ofNat 4 (leAt b 2 1), streamQuota := leAt b 4 4
        aQuota := leAt b 8 4, maxFrames := leAt b 12 4, disabling := false }) ∧
      (eventRoom s 0 = false → tenOf t (tsTenant b) = { tenOf s (tsTenant b) with
        fixedSlot := bitAt (leAt b 1 1) 1, maxFrames := leAt b 12 4, disabling := false } ∧ t.admin.isSome = true) ∧
      (∀ n, n ≠ tsTenant b → tenOf t n = tenOf s n) ∧ t.ten.keys = s.ten.keys ∧ Unchanged [.ten, .host, .err, .out, .admin] s t) ∧
  (∀ (s : State) (d : Desc) (b : List Byte), BufferMay s d 0x22 → b.length = aLen d → tsBad s b = false → tsSum s b ≤ 65536 →
    tsEnabled b = false → (tenOf s (tsTenant b)).enabled = true → s.time.st ≠ .unsync → Runs (.tenantSet d (.ok b)) s fun t =>
      (tenOf t (tsTenant b)).enabled = true ∧ (tenOf t (tsTenant b)).disabling = true ∧
      (∀ n, n ≠ tsTenant b → tenOf t n = tenOf s n) ∧ t.ten.keys = s.ten.keys ∧ Unchanged [.ten, .host, .err, .out, .admin] s t) ∧
  (∀ (s : State) (d : Desc) (b : List Byte), BufferMay s d 0x22 → b.length = aLen d → tsBad s b = false → tsSum s b ≤ 65536 →
    tsEnabled b = false → (tenOf s (tsTenant b)).enabled = true → s.time.st = .unsync → Runs (.tenantSet d (.ok b)) s fun t =>
      (tenOf t (tsTenant b)).enabled = false ∧ (∀ n, n ≠ tsTenant b → tenOf t n = tenOf s n) ∧ t.ten.keys = s.ten.keys ∧
      (∀ i, streamOf t i = if i ∈ streamsOf s (tsTenant b) then Stream.reset else streamOf s i) ∧
      Unchanged [.ten, .str, .mem, .host, .err, .out, .admin] s t) ∧
  (∀ (s : State) (d : Desc), AdminMay s d 0x23 → bitsOf (aArg0 d) 9 8 = 0 → s.time.st = .unsync → Runs (.tenantQuarantine d) s fun t =>
      (tenOf t (aArg0 d % 256)).quarantined = true ∧ (∀ n, n ≠ aArg0 d % 256 → tenOf t n = tenOf s n) ∧ t.ten.keys = s.ten.keys ∧
      (∀ i, i ∈ streamsOf s (aArg0 d % 256) → (streamOf t i).pending = [] ∧
        ((streamOf s i).st = .opened ∨ (streamOf s i).st = .bound → (streamOf t i).st = .paused)) ∧
      (∀ i, i ∉ streamsOf s (aArg0 d % 256) → streamOf t i = streamOf s i) ∧
      Unchanged [.ten, .str, .host, .err, .out, .admin] s t) ∧
  (∀ (s : State) (d : Desc), AdminMay s d 0x23 → bitsOf (aArg0 d) 9 8 = 1 → s.time.st = .unsync → Runs (.tenantRelease d) s fun t =>
      tenOf t (aArg0 d % 256) = { tenOf s (aArg0 d % 256) with quarantined := false } ∧
      (∀ n, n ≠ aArg0 d % 256 → tenOf t n = tenOf s n) ∧ t.ten.keys = s.ten.keys ∧
      Unchanged [.ten, .host, .err, .out, .admin] s t) ∧
  (∀ (s : State) (d : Desc), AdminMay s d 0x23 → bitsOf (aArg0 d) 9 8 = 2 → s.time.st = .unsync → Runs (.tenantEvict d) s fun t =>
      (tenOf t (aArg0 d % 256)).enabled = false ∧ (∀ n, n ≠ aArg0 d % 256 → tenOf t n = tenOf s n) ∧
      (∀ i, streamOf t i = if i ∈ streamsOf s (aArg0 d % 256) then Stream.reset else streamOf s i) ∧
      (∀ k, keyOf t k = if k ∈ ownedKeys s (aArg0 d % 256) ∧ keyInUse s k = false then none else keyOf s k) ∧
      Unchanged [.ten, .str, .mem, .host, .err, .out, .admin] s t) ∧
  (∀ (s : State) (d : Desc) (a : Nat) (c : Instr), AdminMay s d 0x23 → bitsOf (aArg0 d) 9 8 = a → s.time.st ≠ .unsync →
    (a = 0 ∧ c = .tenantQuarantine d ∨ a = 1 ∧ c = .tenantRelease d ∨ a = 2 ∧ c = .tenantEvict d) →
    exec c s = .next { adminTaken s with admin := some { d := d, work := .contain (aArg0 d % 256) a } })

/-- KNOT_SIGNAL with a plan running and for the present tick adds to an epoch knot modulo 2^16, and is out of range where a credit knot would leave its range; one for a tick from 1 to 8 ahead waits, and for another tick is KNOT_BAD_TICK; without a plan it is KNOT_NO_PLAN. KNOT_DUMP of the live dump writes it with CAUSE 0 and leaves the saved one; of the saved dump it writes it, marks it read and clears the count of lost dumps, and without an unread one is KNOT_NO_DUMP; where the write of the buffer fails it completes with DMA_ERROR and marks nothing read (log 86) (from R174, R180, R188, Tables 4-12, 9-2, 9-3). -/
def Obligations.HostKnotCommands : Prop :=
  (∀ (s : State) (d : Desc), AdminMay s d 0x30 → aArg1 d = 0 → (runningPlan s).isSome = true → bitsOf (aArg0 d) 5 0 < 32 →
    s.knot.vals.length = 48 → Runs (.knotSignal d) s fun t =>
      knotOf t (bitsOf (aArg0 d) 5 0) = (knotOf s (bitsOf (aArg0 d) 5 0) + bitsOf (aArg0 d) 31 16) % 65536 ∧
      (∀ j, j ≠ bitsOf (aArg0 d) 5 0 → knotOf t j = knotOf s j) ∧ Unchanged [.knot, .core, .host, .err, .out, .admin] s t) ∧
  (∀ (s : State) (d : Desc), AdminMay s d 0x30 → aArg1 d = 0 → (runningPlan s).isSome = true →
    hostSignalBad s (bitsOf (aArg0 d) 5 0) (bitsOf (aArg0 d) 31 16) = true →
    exec (.knotSignal d) s = .next (adminDone (adminTaken s) d 0xC2 0)) ∧
  (∀ (s : State) (d : Desc), AdminMay s d 0x30 → planComes s (aArg1 d) = true → aArg1 d ≠ 0 → s.tick.index + 1 ≤ aArg1 d →
    aArg1 d ≤ s.tick.index + 8 → exec (.knotSignal d) s = .next { adminTaken s with
      admin := some { d := d, work := .signalAt (bitsOf (aArg0 d) 5 0) (bitsOf (aArg0 d) 31 16) (aArg1 d) } }) ∧
  (∀ (s : State) (d : Desc), AdminMay s d 0x30 → planComes s (aArg1 d) = true → aArg1 d ≠ 0 →
    (aArg1 d < s.tick.index + 1 ∨ s.tick.index + 8 < aArg1 d) → exec (.knotSignal d) s = .next (adminDone (adminTaken s) d 0xC1 0)) ∧
  (∀ (s : State) (d : Desc), AdminMay s d 0x30 → (aArg1 d = 0 ∧ runningPlan s = none ∨ aArg1 d ≠ 0 ∧ planComes s (aArg1 d) = false) →
    exec (.knotSignal d) s = .next (adminDone (adminTaken s) d 0xC0 0)) ∧
  (∀ (s : State) (d : Desc), AdminMay s d 0x31 → aArg0 d = 1 → Runs (.knotDump { d := d, fault := false }) s fun t =>
      Out.buffer (aAddr d) (padTo (aLen d) (knotDump s 0 0 (stampTick s) s.link.chipId)) ∈ t.out ∧
      Unchanged [.host, .err, .out, .admin] s t) ∧
  (∀ (s : State) (d : Desc) (b : List Byte), AdminMay s d 0x31 → aArg0 d = 0 → s.knot.dumpUnread = true → s.knot.dump = some b →
    Runs (.knotDump { d := d, fault := false }) s fun t =>
      Out.buffer (aAddr d) (padTo (aLen d) b) ∈ t.out ∧ t.knot = { s.knot with dumpUnread := false, dumpsLost := 0 } ∧
      Unchanged [.knot, .host, .err, .out, .admin] s t) ∧
  (∀ (s : State) (d : Desc) (fault : Bool), AdminMay s d 0x31 → aArg0 d = 0 → s.knot.dumpUnread = false →
    exec (.knotDump { d := d, fault := fault }) s = .next (adminDone (adminTaken s) d 0xC3 0)) ∧
  (∀ (s : State) (d : Desc), AdminMay s d 0x31 → (aArg0 d = 1 ∨ s.knot.dumpUnread = true) →
    exec (.knotDump { d := d, fault := true }) s = .next (adminDone (adminTaken s) d 4 0))

/-- POWER_POLICY within its bounds waits for the boundary, or takes effect at once while none is generated; outside its bounds, or below a plan's floor, it is refused and changes nothing. MODULE_CAP_SET of 350 to 760 W waits for the boundary, and another cap is answered ERROR_INVALID_DATA; BRAKE_EFFECTER_SET gives the effecter its value. DEBUG_UNLOCK draws a new challenge whether or not its buffer is read, and unlocks debug exactly by a token that passes every check against the challenge that stood; DEBUG_LOCK locks at once and closes DVDBG (from R47, R302, R304, R305, R338). -/
def Obligations.PowerAndDebugSettings : Prop :=
  (∀ (s : State) (d : Desc) (b : List Byte), BufferMay s d 0x50 → b.length = aLen d → ppBad b = false → ppFloorOk s (leAt b 0 2) = true →
    (s.time.st ≠ .unsync → exec (.powerPolicy d (.ok b)) s = .next { adminRead s d with
      pwr := { s.pwr with policyNext := some (ppPolicy b) }, admin := some { d := d, work := .policy } }) ∧
    (s.time.st = .unsync → Runs (.powerPolicy d (.ok b)) s fun t =>
      t.pwr = { s.pwr with policy := ppPolicy b, policyNext := none } ∧ Unchanged [.pwr, .host, .err, .out, .admin] s t)) ∧
  (∀ (s : State) (d : Desc) (b : List Byte), BufferMay s d 0x50 → b.length = aLen d → ppBad b = true →
    exec (.powerPolicy d (.ok b)) s = .next (adminDone (adminRead s d) d 0xC0 0)) ∧
  (∀ (s : State) (d : Desc) (b : List Byte), BufferMay s d 0x50 → b.length = aLen d → ppBad b = false →
    ppFloorOk s (leAt b 0 2) = false → exec (.powerPolicy d (.ok b)) s = .next (adminDone (adminRead s d) d 0xC1 0)) ∧
  (∀ (s : State) (w : Nat), s.boot.phase = .firmware → 350 ≤ w → w ≤ 760 → exec (.moduleCapSet w) s = .next { s with
    pwr := { s.pwr with capNext := some w }, out := .service 6 0 [] :: s.out }) ∧
  (∀ (s : State) (w : Nat), s.boot.phase = .firmware → (w < 350 ∨ 760 < w) → exec (.moduleCapSet w) s = .next { s with
    out := .service 6 errorInvalidData [] :: s.out }) ∧
  (∀ (s : State) (on : Bool), s.boot.phase = .firmware → exec (.brakeEffecterSet on) s = .next { s with
    pwr := { s.pwr with effecter := on }, out := .service 6 0 [] :: s.out }) ∧
  (∀ (s : State) (d : Desc) (b : List Byte), BufferMay s d 0x70 → aArg0 d = 1 → b.length = aLen d →
    Runs (.debugUnlock d (.ok b)) s fun t =>
      t.err.challenge = Config.entropy s.draws % 2 ^ 64 ∧ t.err.unlocked = (s.err.unlocked || decide (tokenCheck s b = 0)) ∧
      t.draws = s.draws + 1 ∧ Unchanged [.host, .err, .out, .admin, .draws, .ras] s t) ∧
  (∀ (s : State) (d : Desc), BufferMay s d 0x70 → aArg0 d = 1 → Runs (.debugUnlock d .error) s fun t =>
      t.err.challenge = Config.entropy s.draws % 2 ^ 64 ∧ t.err.unlocked = s.err.unlocked ∧ t.draws = s.draws + 1 ∧
      Unchanged [.host, .err, .out, .admin, .draws, .ras] s t) ∧
  (∀ (s : State) (d : Desc), AdminMay s d 0x70 → aArg0 d = 0 → Runs (.debugLock d) s fun t =>
      t.err.unlocked = false ∧ t.dbg = { s.dbg with dvdbg := false, ir := if s.dbg.ir = .dvdbg then .bypass else s.dbg.ir } ∧
      Unchanged [.host, .err, .out, .admin, .dbg, .ras] s t)

/-- LOG_READ writes whole records of the event log, of the recovery log or of the stream table to its buffer; those of the event log are then marked as read; the summary without an unread one and the stream table without HBM are refused; where the write of the buffer fails it completes with DMA_ERROR. SLICE_SET with a list that passes its checks starts one probe for each pair of chip and port; another list completes with its status. WARM_RESET asks for a warm reset with a recall and flush, which falls due at the next boundary, or at once while none is generated, and its descriptor waits for it (from R69, R248, R332, R336). -/
def Obligations.LogSliceAndWarmReset : Prop :=
  (∀ (s : State) (d : Desc), AdminMay s d 0x72 → aArg1 d = 0 → (fnOf s 0).lostEvents = 0 → (freeReadTag s.host).isSome = true →
    Runs (.logRead { d := d, fault := false }) s fun t =>
      Out.buffer (aAddr d) (padTo (aLen d) (readEvents s (aArg0 d) (aLen d)).bytes) ∈ t.out ∧
      t.err = (advanceLogRead (readEvents s (aArg0 d) (aLen d)) (aArg0 d) s).err ∧ s.err.logRead ≤ t.err.logRead ∧
      Unchanged [.host, .err, .out, .admin, .ras] s t) ∧
  (∀ (s : State) (d : Desc), AdminMay s d 0x72 → aArg1 d = 1 → Runs (.logRead { d := d, fault := false }) s fun t =>
      Out.buffer (aAddr d) (padTo (aLen d) (readRecovery s (aArg0 d) (aLen d)).bytes) ∈ t.out ∧
      Unchanged [.host, .err, .out, .admin] s t) ∧
  (∀ (s : State) (d : Desc), AdminMay s d 0x72 → aArg1 d = 3 → s.boot.hbmOk = true → Runs (.logRead { d := d, fault := false }) s fun t =>
      Out.buffer (aAddr d) (padTo (aLen d) (readStreams s (aArg0 d) (aLen d)).bytes) ∈ t.out ∧
      Unchanged [.host, .err, .out, .admin] s t) ∧
  (∀ (s : State) (d : Desc) (fault : Bool), AdminMay s d 0x72 →
    (aArg1 d = 2 → s.err.pmUnread = false → exec (.logRead { d := d, fault := fault }) s = .next (adminDone (adminTaken s) d 0xC3 0)) ∧
    (aArg1 d = 3 → s.boot.hbmOk = false → exec (.logRead { d := d, fault := fault }) s = .next (adminDone (adminTaken s) d 0xC4 0)) ∧
    (aArg1 d < 2 → exec (.logRead { d := d, fault := true }) s = .next (adminDone (adminTaken s) d 4 0))) ∧
  (∀ (s : State) (d : Desc) (b : List Byte), BufferMay s d 0x80 → b.length = aLen d → sliceCheck s (aLen d) b = 0 →
    Runs (.sliceSet d (.ok b)) s fun t =>
      t.link.probes = slProbes b ∧ t.admin = some { d := d, work := .slice } ∧ Unchanged [.admin, .host, .link, .peers, .out] s t) ∧
  (∀ (s : State) (d : Desc) (b : List Byte), BufferMay s d 0x80 → b.length = aLen d → sliceCheck s (aLen d) b ≠ 0 →
    exec (.sliceSet d (.ok b)) s = .next (adminDone (adminRead s d) d (sliceCheck s (aLen d) b) 0)) ∧
  (∀ (s : State) (d : Desc), AdminMay s d 0x71 → s.boot.warm = none → Runs (.warmReset d) s fun t =>
      t.boot = { s.boot with warm := some { source := .operator, due := !timeRuns s, flush := true } } ∧
      t.admin = some { d := d, work := .warm } ∧ Unchanged [.boot, .admin, .lib, .host, .err, .out, .draws] s t)

/-- The common instructions that move only their queue (from R129 to R131, R138, R139, R175, R176, R328, Table 7-4): NOP goes on; FENCE goes on when nothing of its queue is in flight and stalls otherwise; WAIT goes on when its knot meets it, a credit WAIT subtracting its count, and stalls otherwise; WAIT_TIME waits for its offset and WAIT_TIME_EXPIRE ends that wait; END ends the queue; with its gate closed a NOP, FENCE, SIGNAL, WAIT, RELEASE or WAIT_TIME is passed over. An instruction whose fetch meets a damaged unit of the plan buffer halts the core. -/
def Obligations.CommonInstructions : Prop :=
  (∀ (s : State) (q : Nat) (w : Insn), InsnMay s q w 0x00 → gateOpen s (gateOf w) = true →
    exec (.nopInstruction q w) s = .next (setQueue s q (queuePast s q))) ∧
  (∀ (s : State) (q : Nat) (w : Insn), InsnMay s q w 0x01 → gateOpen s (gateOf w) = true → (queueOf s q).flights = [] →
    exec (.fence q w) s = .next (setQueue s q (queuePast s q))) ∧
  (∀ (s : State) (q : Nat) (w : Insn), InsnMay s q w 0x01 → gateOpen s (gateOf w) = true → (queueOf s q).flights ≠ [] →
    exec (.fence q w) s = .next (setQueue s q { queueOf s q with st := .fencing })) ∧
  (∀ (s : State) (q : Nat) (w : Insn), InsnMay s q w 0x03 → gateOpen s (gateOf w) = true →
    exec (.wait q w) s = .next (
      if waitMet (fieldOf w 21 16) (knotOf s (fieldOf w 21 16)) (fieldOf w 47 32) then
        setQueue (if fieldOf w 21 16 < 32 then s
          else setKnot s (fieldOf w 21 16) (knotOf s (fieldOf w 21 16) - fieldOf w 47 32 % 4096)) q (queuePast s q)
      else setQueue s q { queueOf s q with st := .waitKnot, knot := some (fieldOf w 21 16, fieldOf w 47 32) })) ∧
  (∀ (s : State) (q : Nat) (w : Insn), InsnMay s q w 0x05 → gateOpen s (gateOf w) = true →
    exec (.waitTime q w) s = .next (
      if offsetNs s (fieldOf w 47 16) ≤ s.time.now then setQueue s q (queuePast s q)
      else setQueue s q { queueOf s q with st := .waitTime, time := offsetNs s (fieldOf w 47 16) })) ∧
  (∀ (s : State) (q : Nat), (queueOf s q).st = .waitTime → beforeBoundary s (queueOf s q).time = true →
    exec (.waitTimeExpire q) s = .next (setQueue (advanceTo s (queueOf s q).time) q (queuePast s q))) ∧
  (∀ (s : State) (q : Nat) (w : Insn), InsnMay s q w 0x0F → gateOpen s (gateOf w) = true →
    exec (.endQueue q w) s = .next (setQueue s q { queueOf s q with st := .ended })) ∧
  (∀ (s : State) (q op : Nat) (w : Insn) (c : Instr), InsnMay s q w op → gateOpen s (gateOf w) = false →
    (op = 0x00 ∧ c = .nopInstruction q w ∨ op = 0x01 ∧ c = .fence q w ∨ op = 0x02 ∧ c = .signal q w ∨ op = 0x03 ∧ c = .wait q w ∨
      op = 0x04 ∧ c = .release q w ∨ op = 0x05 ∧ c = .waitTime q w) →
    exec c s = .next (setQueue s q (queuePast s q))) ∧
  (∀ (s : State) (q op : Nat) (w : Insn) (c : Instr), mayIssue s q w = true → opcodeOf w = op →
    s.mem.poolBad.any (unitIn [(insnAddr s q (queueOf s q).head, 16)]) = true →
    (op = 0x00 ∧ c = .nopInstruction q w ∨ op = 0x01 ∧ c = .fence q w ∨ op = 0x02 ∧ c = .signal q w ∨ op = 0x03 ∧ c = .wait q w ∨
      op = 0x04 ∧ c = .release q w ∨ op = 0x05 ∧ c = .waitTime q w ∨ op = 0x0F ∧ c = .endQueue q w) →
    Runs c s fun t => t.core.halted = true)

/-- SIGNAL, RELEASE and ENGINE_WORK_COMPLETE (from R129, R133, R135, R139, R174, R179): a local SIGNAL adds its amount to an epoch knot modulo 2^16 and goes on; a remote one leaves every knot here and is sent on its port; RELEASE lowers its slot's count by one, its handle named or popped; a release of a free slot halts the core; the end of an engine's work pushes the handle it produced; an engine instruction without a handle operand that is skipped with nothing in flight and no done knot goes on and does nothing else. -/
def Obligations.SignalsReleasesAndCompletions : Prop :=
  (∀ (s : State) (q : Nat) (w : Insn), InsnMay s q w 0x02 → gateOpen s (gateOf w) = true → bitAt w.toNat 22 = false →
    fieldOf w 21 16 < 32 → s.knot.vals.length = 48 → Runs (.signal q w) s fun t =>
      knotOf t (fieldOf w 21 16) = (knotOf s (fieldOf w 21 16) + fieldOf w 55 40) % 65536 ∧
      (∀ j, j ≠ fieldOf w 21 16 → knotOf t j = knotOf s j) ∧ queueOf t q = queuePast s q ∧ t.core.slots = s.core.slots ∧
      t.core.hqs = s.core.hqs ∧ Unchanged [.knot, .core] s t) ∧
  (∀ (s : State) (q : Nat) (w : Insn), InsnMay s q w 0x02 → gateOpen s (gateOf w) = true → bitAt w.toNat 22 = true →
    exec (.signal q w) s = .next (setQueue (sendTagged s (fieldOf w 26 24) (fieldOf w 38 28) 0x20
        (leBytes 1 (fieldOf w 21 16) ++ [0] ++ leBytes 2 (fieldOf w 55 40))) q (queuePast s q)) ∧
      Runs (.signal q w) s fun t => (∀ p, p ≠ fieldOf w 26 24 → portOf t p = portOf s p) ∧ t.knot = s.knot ∧
        Unchanged [.core, .link, .out] s t) ∧
  (∀ (s s' : State) (q h : Nat) (w : Insn), InsnMay s q w 0x04 → gateOpen s (gateOf w) = true → (queueOf s q).flights = [] →
    HandleTaken s q w 16 h s' → (slotOf s h).count ≠ 0 → Runs (.release q w) s fun t =>
      slotOf t h = { slotOf s h with count := (slotOf s h).count - 1, carry := (slotOf s h).carry && decide (2 ≤ (slotOf s h).count) } ∧
      (∀ x, x ≠ h → slotOf t x = slotOf s x) ∧ queueOf t q = { queueOf s q with head := (queueOf s q).head + 1 } ∧
      (∀ p, p ≠ q → queueOf t p = queueOf s p) ∧ t.core.hqs = s'.core.hqs ∧ Unchanged [.core, .hqs] s t) ∧
  (∀ (s s' : State) (q h : Nat) (w : Insn), InsnMay s q w 0x04 → gateOpen s (gateOf w) = true → (queueOf s q).flights = [] →
    HandleTaken s q w 16 h s' → (slotOf s h).count = 0 → Runs (.release q w) s fun t => t.core.halted = true) ∧
  (∀ (s : State) (q hq h : Nat) (fl : Flight), s.core.halted = false → q < s.core.queues.length → (queueOf s q).flights = [fl] →
    fl.work = .plain → fl.pushes = [(hq, h)] → fl.releases = [] → fl.knot = none → (queueOf s q).st ≠ .fencing →
    hq < s.core.hqs.length → (hqOf s hq).length < 256 → Runs (.engineWorkComplete q) s fun t =>
      hqOf t hq = hqOf s hq ++ [h] ∧ (∀ j, j ≠ hq → hqOf t j = hqOf s j) ∧ queueOf t q = { queueOf s q with flights := [] } ∧
      (∀ p, p ≠ q → queueOf t p = queueOf s p) ∧ t.core.slots = s.core.slots ∧ Unchanged [.core, .hqs] s t) ∧
  (∀ (s : State) (q op : Nat) (w : Insn) (c : Instr), InsnMay s q w op → skipped s w = true → (queueOf s q).flights = [] → doneKnotOf w = none →
    (q = 0 ∧ (op = 0x10 ∧ c = .loadBlock w ∨ op = 0x11 ∧ c = .loadStage w ∨ op = 0x12 ∧ c = .loadSpill w ∨ op = 0x13 ∧ c = .loadCopy w) ∨
      q = 1 ∧ op = 0x20 ∧ c = .sapinLand w ∨ q = 6 ∧ op = 0x70 ∧ fieldOf w 23 16 ≠ 1 ∧ c = .vectorOp w ∨
      q = 7 ∧ (op = 0x80 ∧ c = .hostioGather w ∨ op = 0x81 ∧ c = .hostioPost w ∨ op = 0x82 ∧ c = .hostioNotify w)) →
    exec c s = .next (setQueue s q { queueOf s q with head := (queueOf s q).head + 1 }))

/-- LOAD.BLOCK and LOAD.COPY (from R133, R140, Table 7-5, Table 14-1; log 97): the block's bytes stand in its slot, which takes its tag and count, and nothing else of the pool changes; a slot that is held, and plain state under a wrong tag, halt the core; a copy moves its bytes within HBM and changes nothing else of it; beyond the end of HBM the load stops. LOAD.STAGE, LOAD.SPILL and LOAD.XPOSE (from R123, R133, R137, R229, Table 7-5): each column's state goes between its stream's buffer and the work area, a refill that an earlier EOU calls for coming first, columns without a frame reading zero, and nothing else of either memory changes; a column beyond its STATE_LEN halts the core; the transpose fills its slot from the source, its handle named or popped, under the source's tag, and a free source or a held DST halts the core. -/
def Obligations.LoadInstructions : Prop :=
  (∀ (s : State) (w : Insn), InsnMay s 0 w 0x10 → skipped s w = false → (slotOf s (fieldOf w 25 16)).count = 0 → plainClash s w = none →
    (blockSrc w).2 ≤ 65536 → (blockSrc w).1 + (blockSrc w).2 ≤ hbmEnd → Runs (.loadBlock w) s fun t =>
      (∀ i, i < (blockSrc w).2 → poolByte t (slotBase (fieldOf w 25 16) + i) = hbmByte s ((blockSrc w).1 + i)) ∧
      PoolKept s t (slotBase (fieldOf w 25 16)) 65536 ∧ t.mem.hbm = s.mem.hbm ∧
      (slotOf t (fieldOf w 25 16)).count = slotCount (pushesOf w) ∧ (slotOf t (fieldOf w 25 16)).tag = blockTag s w ∧
      (∀ h, h ≠ fieldOf w 25 16 → slotOf t h = slotOf s h) ∧ t.core.hqs = s.core.hqs ∧
      Launched s t 0 (flightOf s 0 w (some (fieldOf w 25 16)) [] false) ∧ Unchanged [.core, .mem] s t) ∧
  (∀ (s : State) (w : Insn), InsnMay s 0 w 0x10 → skipped s w = false → (slotOf s (fieldOf w 25 16)).count ≠ 0 ∨ plainClash s w ≠ none →
    (blockSrc w).1 + (blockSrc w).2 ≤ hbmEnd → Runs (.loadBlock w) s fun t => t.core.halted = true) ∧
  (∀ (s : State) (w : Insn), InsnMay s 0 w 0x10 → skipped s w = false → hbmEnd < (blockSrc w).1 + (blockSrc w).2 →
    exec (.loadBlock w) s = .fault (.hbmRange (blockSrc w).1)) ∧
  (∀ (s : State) (w : Insn), InsnMay s 0 w 0x13 → skipped s w = false →
    64 * fieldOf w 47 16 + 64 * fieldOf w 103 80 ≤ hbmEnd → 64 * fieldOf w 79 48 + 64 * fieldOf w 103 80 ≤ hbmEnd →
    Runs (.loadCopy w) s fun t =>
      (∀ i, i < 64 * fieldOf w 103 80 → hbmByte t (64 * fieldOf w 79 48 + i) = hbmByte s (64 * fieldOf w 47 16 + i)) ∧
      (∀ a, a < 64 * fieldOf w 79 48 ∨ 64 * fieldOf w 79 48 + 64 * fieldOf w 103 80 ≤ a → hbmByte t a = hbmByte s a) ∧
      t.mem.pool = s.mem.pool ∧ t.core.slots = s.core.slots ∧ t.core.hqs = s.core.hqs ∧ Launched s t 0 (flightOf s 0 w none [] false) ∧
      Unchanged [.core, .mem] s t) ∧
  (∀ (s : State) (w : Insn), InsnMay s 0 w 0x13 → skipped s w = false →
    hbmEnd < 64 * fieldOf w 47 16 + 64 * fieldOf w 103 80 ∨ hbmEnd < 64 * fieldOf w 79 48 + 64 * fieldOf w 103 80 →
    ∃ a, exec (.loadCopy w) s = .fault (.hbmRange a)) ∧
  (∀ (s : State) (w : Insn) (cols : List WorkFrame), InsnMay s 0 w 0x11 → skipped s w = false →
    cols = tileColumns s (fieldOf w 27 16) (fieldOf w 39 28) → cols.Pairwise (fun a b => a.column ≠ b.column) →
    (∀ c ∈ cols, stageBeyond s w c = false ∧ s.str.work.any (refillBefore c) = false ∧ c.column < 64 ∧
      (stageRange s w c).2.1 + (stageRange s w c).2.2 ≤ hbmEnd) → Runs (.loadStage w) s fun t =>
      (∀ c ∈ cols, ∀ i, i < 64 * fieldOf w 89 78 → poolByte t (workBase (fieldOf w 59 40) + c.column * (64 * fieldOf w 89 78) + i) =
        hbmByte s ((streamOf s c.stream).stateAddr + 64 * fieldOf w 77 60 + i)) ∧
      (∀ k i, k < 64 → (∀ c ∈ cols, c.column ≠ k) → i < 64 * fieldOf w 89 78 →
        poolByte t (workBase (fieldOf w 59 40) + k * (64 * fieldOf w 89 78) + i) = 0) ∧
      PoolKept s t (workBase (fieldOf w 59 40)) (64 * (64 * fieldOf w 89 78)) ∧ t.mem.hbm = s.mem.hbm ∧ t.core.slots = s.core.slots ∧
      t.core.hqs = s.core.hqs ∧ Launched s t 0 (flightOf s 0 w none [] false) ∧ Unchanged [.core, .mem] s t) ∧
  (∀ (s : State) (w : Insn) (c : WorkFrame), InsnMay s 0 w 0x11 → skipped s w = false →
    tileColumns s (fieldOf w 27 16) (fieldOf w 39 28) = [c] → stageBeyond s w c = false → s.str.work.any (refillBefore c) = true →
    c.column < 64 → (stageRange s w c).2.1 + (stageRange s w c).2.2 ≤ hbmEnd → Runs (.loadStage w) s fun t =>
      (∀ i, i < 64 * fieldOf w 89 78 → poolByte t (workBase (fieldOf w 59 40) + c.column * (64 * fieldOf w 89 78) + i) =
        hbmByte s (initAddrOf s c.modelIdx + 64 * fieldOf w 77 60 + i)) ∧
      (∀ i, i < (streamOf s c.stream).stateLen → hbmByte t ((streamOf s c.stream).stateAddr + i) = hbmByte s (initAddrOf s c.modelIdx + i)) ∧
      t.str = { s.str with work := s.str.work.map (fun x => if refillBefore c x then { x with refilled := true } else x) } ∧
      Launched s t 0 (flightOf s 0 w none [] false) ∧ Unchanged [.core, .mem, .str] s t) ∧
  (∀ (s : State) (w : Insn) (cols : List WorkFrame), InsnMay s 0 w 0x12 → skipped s w = false →
    cols = tileColumns s (fieldOf w 27 16) (fieldOf w 39 28) →
    cols.Pairwise (fun a b => spanMeets (stageRange s w a).2 (stageRange s w b).2 = false) →
    (∀ c ∈ cols, stageBeyond s w c = false ∧ s.str.work.any (refillBefore c) = false ∧
      (stageRange s w c).2.1 + (stageRange s w c).2.2 ≤ hbmEnd) → Runs (.loadSpill w) s fun t =>
      (∀ c ∈ cols, ∀ i, i < 64 * fieldOf w 89 78 → hbmByte t ((streamOf s c.stream).stateAddr + 64 * fieldOf w 77 60 + i) =
        poolByte s (workBase (fieldOf w 59 40) + c.column * (64 * fieldOf w 89 78) + i)) ∧
      (∀ a, (∀ c ∈ cols, a < (stageRange s w c).2.1 ∨ (stageRange s w c).2.1 + (stageRange s w c).2.2 ≤ a) → hbmByte t a = hbmByte s a) ∧
      t.mem.pool = s.mem.pool ∧ t.core.slots = s.core.slots ∧ t.core.hqs = s.core.hqs ∧
      Launched s t 0 (flightOf s 0 w none [] false) ∧ Unchanged [.core, .mem] s t) ∧
  (∀ (s : State) (op : Nat) (w : Insn) (c : Instr), InsnMay s 0 w op → skipped s w = false →
    (tileColumns s (fieldOf w 27 16) (fieldOf w 39 28)).any (stageBeyond s w) = true →
    (op = 0x11 ∧ c = .loadStage w ∨ op = 0x12 ∧ c = .loadSpill w) → Runs c s fun t => t.core.halted = true) ∧
  (∀ (s s' : State) (w : Insn) (h : Nat), InsnMay s 0 w 0x14 → skipped s w = false → HandleTaken s 0 w 16 h s' →
    (slotOf s h).count ≠ 0 → (slotOf s (fieldOf w 37 28)).count = 0 →
    (fieldOf w 59 48 + 1) * (fieldOf w 71 60 + 1) * (if fieldOf w 73 72 = 0 then 1 else if fieldOf w 73 72 = 1 then 8 else 16) ≤ 524288 →
    poisonedUnit s.mem.poolPoison [(slotBase h, ceilDiv ((fieldOf w 59 48 + 1) * (fieldOf w 71 60 + 1) *
      (if fieldOf w 73 72 = 0 then 1 else if fieldOf w 73 72 = 1 then 8 else 16)) 8)] = none →
    Runs (.loadXpose w) s fun t =>
      (slotOf t (fieldOf w 37 28)).tag = (slotOf s h).tag ∧ (slotOf t (fieldOf w 37 28)).count = slotCount (pushesOf w) ∧
      (∀ x, x ≠ fieldOf w 37 28 → slotOf t x = slotOf s x) ∧
      (∀ i b, (xposeBytes (poolBytes s (slotBase h) 65536) (fieldOf w 59 48 + 1) (fieldOf w 71 60 + 1) (fieldOf w 73 72))[i]? = some b →
        poolByte t (slotBase (fieldOf w 37 28) + i) = b) ∧
      PoolKept s t (slotBase (fieldOf w 37 28)) (max 65536
        (xposeBytes (poolBytes s (slotBase h) 65536) (fieldOf w 59 48 + 1) (fieldOf w 71 60 + 1) (fieldOf w 73 72)).length) ∧
      t.mem.hbm = s.mem.hbm ∧ t.core.hqs = s'.core.hqs ∧ Launched s t 0 (flightOf s 0 w (some (fieldOf w 37 28)) (relSlots w h) false) ∧
      Unchanged [.core, .mem, .hqs] s t) ∧
  (∀ (s s' : State) (w : Insn) (h : Nat), InsnMay s 0 w 0x14 → skipped s w = false → HandleTaken s 0 w 16 h s' →
    (slotOf s h).count = 0 ∨ (slotOf s (fieldOf w 37 28)).count ≠ 0 → Runs (.loadXpose w) s fun t => t.core.halted = true)

/-- LATTICE.MUL (from R100, R133, R135, R142, R143, R152, R153, R155 to R157): with its handle named or popped, its group aligned, held, tagged for every column and free of poison, the sums of the rows and columns stand in the work area and nothing else of the pool changes; a misaligned group, a free slot, a KEEP without its tables, a wrong tag and a pop of an empty queue halt the core. PLINTH.MMA (from R100, R133, R135, R162 to R164): with its slot held, tagged for every column and free of poison, each output is the accumulated sum of its row and column, and nothing else of the pool changes; a free slot, a wrong tag and a pop of an empty queue halt the core. -/
def Obligations.ArrayMultiplies : Prop :=
  (∀ (s s' : State) (w : Insn) (h : Nat) (cols : List WorkFrame), InsnMay s 4 w 0x50 → skipped s w = false → HandleTaken s 4 w 24 h s' →
    cols = tileColumns s (fieldOf w 86 75) (fieldOf w 98 87) → groupAligned w h = true →
    (∀ x ∈ groupOf w h, (slotOf s x).count ≠ 0) → (bitAt w.toNat 21 = true → keepOk s w = true) → tagClash s (groupOf w h) cols = none →
    poisonedUnit s.mem.poolPoison (latticeOperands w h (cols.map (·.column))) = none → Runs (.latticeMul w) s fun t =>
      (∀ i b, (bytesOfWords (latOut (groupRows s h (fieldOf w 18 16 == 0)) (poolRows s (workBase (fieldOf w 74 55)) 2048)
          (if fieldOf w 18 16 == 0 then
            wideColumn (poolBytes s (workBase (fieldOf w 54 35)) 262144)
           else chunkColumn (if bitAt w.toNat 21 then ((s.core.tables.map (·.chunk)).getD []) else poolBytes s (workBase (fieldOf w 54 35)) 32768))
          (cols.map (·.column)) (fieldOf w 18 16 == 0) (bitAt w.toNat 22)))[i]? = some b →
        poolByte t (workBase (fieldOf w 74 55) + i) = b) ∧
      PoolKept s t (workBase (fieldOf w 74 55)) 524288 ∧ t.mem.hbm = s.mem.hbm ∧ t.core.slots = s.core.slots ∧ t.core.hqs = s'.core.hqs ∧
      Launched s t 4 (flightOf s 4 w none (relSlots w h) false) ∧ Unchanged [.core, .mem, .hqs] s t) ∧
  (∀ (s s' : State) (w : Insn) (h : Nat), InsnMay s 4 w 0x50 → skipped s w = false → HandleTaken s 4 w 24 h s' →
    groupAligned w h = false ∨ (∃ x ∈ groupOf w h, (slotOf s x).count = 0) ∨ bitAt w.toNat 21 = true ∧ keepOk s w = false ∨
      tagClash s (groupOf w h) (tileColumns s (fieldOf w 86 75) (fieldOf w 98 87)) ≠ none →
    Runs (.latticeMul w) s fun t => t.core.halted = true) ∧
  (∀ (s s' : State) (w : Insn) (h : Nat) (cols : List WorkFrame), InsnMay s 5 w 0x60 → skipped s w = false → HandleTaken s 5 w 22 h s' →
    cols = tileColumns s (fieldOf w 84 73) (fieldOf w 96 85) → (slotOf s h).count ≠ 0 → tagClash s [h] cols = none →
    poisonedUnit s.mem.poolPoison (plinthOperands w h (cols.map (·.column))) = none → Runs (.plinthMma w) s fun t =>
      (∀ i b, (bytesOfWords ((((cut 1024 64 (poolBytes s (slotBase h) 65536)).map (plinthElems (fieldOf w 17 16))).zip
          (poolRows s (workBase (fieldOf w 72 53)) 64)).flatMap (fun (row, old) =>
            byColumn (cols.map (·.column)) (fun c => plinthOne (if bitAt w.toNat 20 then getAt 0 old c else 0) row
              (getAt [] ((cut 1024 64 (poolBytes s (workBase (fieldOf w 52 33)) 65536)).map (plinthElems (fieldOf w 19 18))) c)))))[i]? = some b →
        poolByte t (workBase (fieldOf w 72 53) + i) = b) ∧
      PoolKept s t (workBase (fieldOf w 72 53)) 16384 ∧ t.mem.hbm = s.mem.hbm ∧ t.core.slots = s.core.slots ∧ t.core.hqs = s'.core.hqs ∧
      Launched s t 5 (flightOf s 5 w none (relSlots w h) false) ∧ Unchanged [.core, .mem, .hqs] s t) ∧
  (∀ (s s' : State) (w : Insn) (h : Nat), InsnMay s 5 w 0x60 → skipped s w = false → HandleTaken s 5 w 22 h s' →
    (slotOf s h).count = 0 ∨ tagClash s [h] (tileColumns s (fieldOf w 84 73) (fieldOf w 96 85)) ≠ none →
    Runs (.plinthMma w) s fun t => t.core.halted = true) ∧
  (∀ (s : State) (q op lo : Nat) (w : Insn) (c : Instr), InsnMay s q w op → skipped s w = false → HandleMissing s q w lo →
    (q = 4 ∧ op = 0x50 ∧ lo = 24 ∧ c = .latticeMul w ∨ q = 5 ∧ op = 0x60 ∧ lo = 22 ∧ c = .plinthMma w) →
    Runs c s fun t => t.core.halted = true)

/-- VECTOR.OP (from R100, R133, R137, R160, R161, R165, R166, Tables 8-1 and 8-2): ReLU answers the canonical NaN for a NaN, zero for a negative input and the input otherwise, column by column; ADD answers the flushed sum; COMBINE, with its slot held and tagged for every column, adds the scaled sums to what stands in D, or replaces it; columns without a frame are zero; the work area outside D is unchanged and no slot, stream or HBM byte is written. Every other function writes what its operands give it, and nothing else. -/
def Obligations.VectorOperations : Prop :=
  (∀ (s : State) (w : Insn), InsnMay s 6 w 0x70 → skipped s w = false → fieldOf w 23 16 = 0x10 ∨ fieldOf w 23 16 = 0x02 →
    poisonedUnit s.mem.poolPoison (vecOperands w (vecOcc s w)) = none → Runs (.vectorOp w) s fun t =>
      (∀ i b, (bytesOfWords (if fieldOf w 23 16 = 0x10 then
          (poolRows s (workBase (fieldOf w 43 24)) (2 * fieldOf w 95 84)).flatMap (fun a => byColumn (vecOcc s w) (fun c =>
            if fpIsNan (getAt 0 a c) then fpNan else if fpNeg (getAt 0 a c) then 0 else fpFlush (getAt 0 a c)))
        else ((poolRows s (workBase (fieldOf w 43 24)) (2 * fieldOf w 95 84)).zip
            (poolRows s (workBase (fieldOf w 63 44)) (2 * fieldOf w 95 84))).flatMap (fun (a, b) => byColumn (vecOcc s w) (fun c =>
              fpFlush (fpAdd (fpIn (getAt 0 a c)) (fpIn (getAt 0 b c)))))))[i]? = some b →
        poolByte t (workBase (fieldOf w 83 64) + i) = b) ∧
      PoolKept s t (workBase (fieldOf w 83 64)) (256 * (2 * fieldOf w 95 84)) ∧ t.mem.hbm = s.mem.hbm ∧ t.core.slots = s.core.slots ∧
      t.core.hqs = s.core.hqs ∧ Launched s t 6 (flightOf s 6 w none [] false) ∧ Unchanged [.core, .mem] s t) ∧
  (∀ (s : State) (w : Insn), InsnMay s 6 w 0x70 → skipped s w = false → fieldOf w 23 16 ≠ 1 →
    poisonedUnit s.mem.poolPoison (vecOperands w (vecOcc s w)) = none → Runs (.vectorOp w) s fun t =>
      t.mem.pool = (vecWrites s w (vecOcc s w)).foldl (fun m p => memWrite 0 m p.1 p.2) s.mem.pool ∧ t.mem.hbm = s.mem.hbm ∧
      t.core.slots = s.core.slots ∧ t.core.hqs = s.core.hqs ∧ Launched s t 6 (flightOf s 6 w none [] false) ∧ Unchanged [.core, .mem] s t) ∧
  (∀ (s s' : State) (w : Insn) (h : Nat), InsnMay s 6 w 0x70 → skipped s w = false → fieldOf w 23 16 = 1 → HandleTaken s 6 w 44 h s' →
    (slotOf s h).count ≠ 0 → tagClash s [h] (vecColumns s w) = none → s.mem.poolPoison = [] → Runs (.vectorOp w) s fun t =>
      (∀ i b, (bytesOfWords (((poolRows s (workBase (fieldOf w 43 24)) (2 * fieldOf w 95 84)).zip
          ((poolRows s (workBase (fieldOf w 83 64)) (2 * fieldOf w 95 84)).zip
            (wordsOf 2 (2 * fieldOf w 95 84) (poolBytes s (slotBase h + 4096 * fieldOf w 59 56) (2 * (2 * fieldOf w 95 84)))))).flatMap
        (fun (a, o, r) => byColumn (vecOcc s w) (fun c => combineOne (bitAt w.toNat 60) (bitAt w.toNat 61) (fpIn (getAt 0 o c)) (getAt 0 a c)
          (fpIn (bf16ToFp r) / 65536) (fpIn (getAt 0 (poolWords s (workBase (fieldOf w 83 64) - 256) 64) c))))))[i]? = some b →
        poolByte t (workBase (fieldOf w 83 64) + i) = b) ∧
      PoolKept s t (workBase (fieldOf w 83 64)) (256 * (2 * fieldOf w 95 84)) ∧ t.mem.hbm = s.mem.hbm ∧ t.core.slots = s.core.slots ∧
      t.core.hqs = s'.core.hqs ∧ Launched s t 6 (flightOf s 6 w none (relSlots w h) false) ∧ Unchanged [.core, .mem, .hqs] s t) ∧
  (∀ (s s' : State) (w : Insn) (h : Nat), InsnMay s 6 w 0x70 → skipped s w = false → fieldOf w 23 16 = 1 → HandleTaken s 6 w 44 h s' →
    (slotOf s h).count = 0 ∨ tagClash s [h] (vecColumns s w) ≠ none → Runs (.vectorOp w) s fun t => t.core.halted = true)

/-- HOSTIO.GATHER, HOSTIO.POST and HOSTIO.NOTIFY (from R85, R137, R144, R330, Tables 7-8 and 7-19): a gather lays each column's payload, cut or zero-filled, in the work area; a post stages the records of every frame of its tile, and a DLEN above 32 halts the core; a notify writes CORE_COMPLETION on T0's event ring with its own vector and no log record, counts it as lost where the ring has no room, drops it where the ring is off, and goes on. -/
def Obligations.HostInputOutput : Prop :=
  (∀ (s : State) (w : Insn), InsnMay s 7 w 0x80 → skipped s w = false → Runs (.hostioGather w) s fun t =>
      (∀ c i, c < 64 → i < 64 * fieldOf w 68 60 → poolByte t (workBase (fieldOf w 59 40) + c * (64 * fieldOf w 68 60) + i) =
        (gatherColumn (tileColumns s (fieldOf w 27 16) (fieldOf w 39 28)) (64 * fieldOf w 68 60) c).getD i 0) ∧
      PoolKept s t (workBase (fieldOf w 59 40)) (64 * (64 * fieldOf w 68 60)) ∧ t.mem.hbm = s.mem.hbm ∧ t.core.slots = s.core.slots ∧
      t.core.hqs = s.core.hqs ∧ Launched s t 7 (flightOf s 7 w none [] false) ∧ Unchanged [.core, .mem] s t) ∧
  (∀ (s : State) (w : Insn) (n : Nat) (cols : List WorkFrame), InsnMay s 7 w 0x81 → skipped s w = false →
    n = ((modelAt s (fieldOf w 27 16)).map (·.resultEntries)).getD 1 → cols = tileColumns s (fieldOf w 27 16) (fieldOf w 39 28) →
    poisonedUnit s.mem.poolPoison (cols.map (fun c => (workBase (fieldOf w 59 40) + c.column * n * 64, n * 64))) = none →
    (∀ x ∈ cols, ∀ e ∈ postRecords s (workBase (fieldOf w 59 40)) n x.column, e.1 ≤ 32) → Runs (.hostioPost w) s fun t =>
      t.str = { s.str with work := s.str.work.map (fun x => if x.modelIdx = fieldOf w 27 16 ∧ x.tile = fieldOf w 39 28 then
        { x with posted := some (postRecords s (workBase (fieldOf w 59 40)) n x.column) } else x) } ∧
      Launched s t 7 (flightOf s 7 w none [] false) ∧ t.core.slots = s.core.slots ∧ t.core.hqs = s.core.hqs ∧ Unchanged [.core, .str] s t) ∧
  (∀ (s : State) (w : Insn) (n : Nat) (cols : List WorkFrame), InsnMay s 7 w 0x81 → skipped s w = false →
    n = ((modelAt s (fieldOf w 27 16)).map (·.resultEntries)).getD 1 → cols = tileColumns s (fieldOf w 27 16) (fieldOf w 39 28) →
    (∃ x ∈ cols, ∃ e ∈ postRecords s (workBase (fieldOf w 59 40)) n x.column, 32 < e.1) → Runs (.hostioPost w) s fun t =>
      t.core.halted = true) ∧
  (∀ (s s' : State) (w : Insn), InsnMay s 7 w 0x82 → skipped s w = false → eventRoom s 0 = true → (fnOf s 0).lostEvents = 0 →
    s' = raiseMsix (writeEntry s 0 2 (eventBits s (evOf 0x0301 3 (fieldOf w 63 32 + 7 * 2 ^ 32 + (queueOf s 7).head % 2 ^ 24 * 2 ^ 40)))) 0 1 →
    exec (.hostioNotify w) s = .next (start (if fieldOf w 26 16 = 0 then s' else raiseMsix s' 0 (fieldOf w 26 16)) 7 (flightOf s 7 w none [] false))) ∧
  (∀ (s : State) (w : Insn), InsnMay s 7 w 0x82 → skipped s w = false → eventRoom s 0 = false → ringLive (ringOf s 0 2) = true →
    exec (.hostioNotify w) s = .next (start (modFn s 0 (fun f => { f with lostEvents := f.lostEvents + 1 })) 7 (flightOf s 7 w none [] false))) ∧
  (∀ (s : State) (w : Insn), InsnMay s 7 w 0x82 → skipped s w = false → ringLive (ringOf s 0 2) = false →
    exec (.hostioNotify w) s = .next (start s 7 (flightOf s 7 w none [] false))) ∧
  (∀ (s : State) (w : Insn), InsnMay s 7 w 0x82 → skipped s w = false → Runs (.hostioNotify w) s fun t =>
      Launched s t 7 (flightOf s 7 w none [] false) ∧ t.mem = s.mem ∧ t.core.slots = s.core.slots ∧ t.str = s.str ∧
      Unchanged [.core, .host, .err, .out] s t)

/-- CODEC.OPEN and CODEC.SEAL, their source named or popped (from R133, R135, R199 to R202, R206, R208, R209): a block that passes its checks leaves its bytes in DST under the owner of the model's key, and one that fails them halts the core with its check code, DST zero; sealing leaves the sealed block in DST untagged and counts it; a source of another tenant's tag, a free source, a held DST and a pop of an empty queue halt the core. -/
def Obligations.CodecInstructions : Prop :=
  (∀ (s s' : State) (w : Insn) (h : Nat) (out : List Byte), InsnMay s 3 w 0x40 → skipped s w = false → HandleTaken s 3 w 60 h s' →
    (slotOf s h).count ≠ 0 → (slotOf s (fieldOf w 81 72)).count = 0 →
    poisonedUnit s.mem.poolPoison [(slotBase h, blockSpan (poolBytes s (slotBase h) 64))] = none →
    openBlock (poolBytes s (slotBase h) 65536) (fieldOf w 59 28) (modelOf s (fieldOf w 27 16)).keyId (modelOf s (fieldOf w 27 16)).nonceBase
      (modelKey s (modelOf s (fieldOf w 27 16))).key = .ok out → Runs (.codecOpen w) s fun t =>
      (∀ i b, out[i]? = some b → poolByte t (slotBase (fieldOf w 81 72) + i) = b) ∧
      PoolKept s t (slotBase (fieldOf w 81 72)) (max 65536 out.length) ∧ t.mem.hbm = s.mem.hbm ∧
      (slotOf t (fieldOf w 81 72)).tag = some (modelKey s (modelOf s (fieldOf w 27 16))).owner ∧
      (slotOf t (fieldOf w 81 72)).count = slotCount (pushesOf w) ∧ (∀ x, x ≠ fieldOf w 81 72 → slotOf t x = slotOf s x) ∧
      t.core.hqs = s'.core.hqs ∧ Launched s t 3 (flightOf s 3 w (some (fieldOf w 81 72)) (relSlots w h) false) ∧
      Unchanged [.core, .mem, .hqs] s t) ∧
  (∀ (s s' : State) (w : Insn) (h c : Nat), InsnMay s 3 w 0x40 → skipped s w = false → HandleTaken s 3 w 60 h s' →
    (slotOf s h).count ≠ 0 → (slotOf s (fieldOf w 81 72)).count = 0 →
    poisonedUnit s.mem.poolPoison [(slotBase h, blockSpan (poolBytes s (slotBase h) 64))] = none →
    openBlock (poolBytes s (slotBase h) 65536) (fieldOf w 59 28) (modelOf s (fieldOf w 27 16)).keyId (modelOf s (fieldOf w 27 16)).nonceBase
      (modelKey s (modelOf s (fieldOf w 27 16))).key = .error c → Runs (.codecOpen w) s fun t =>
      t.core.halted = true ∧ t.sap.checkFail = satAdd s.sap.checkFail 1 ∧ t.sap.lastCheck = c ∧
      (∀ i, i < 65536 → poolByte t (slotBase (fieldOf w 81 72) + i) = 0)) ∧
  (∀ (s s' : State) (w : Insn) (h : Nat), InsnMay s 3 w 0x41 → skipped s w = false → HandleTaken s 3 w 60 h s' →
    (slotOf s h).count ≠ 0 → (slotOf s (fieldOf w 81 72)).count = 0 → poisonedUnit s.mem.poolPoison [(slotBase h, 65408)] = none →
    (slotOf s h).tag = some (modelKey s (modelOf s (fieldOf w 27 16))).owner → Runs (.codecSeal w) s fun t =>
      (∀ i b, (sealBlock (poolBytes s (slotBase h) 65408) (fieldOf w 59 28) (modelOf s (fieldOf w 27 16)).keyId
          (runtimeNonce s (modelKey s (modelOf s (fieldOf w 27 16))).salt) (modelKey s (modelOf s (fieldOf w 27 16))).key)[i]? = some b →
        poolByte t (slotBase (fieldOf w 81 72) + i) = b) ∧
      PoolKept s t (slotBase (fieldOf w 81 72)) (max 65536 (sealBlock (poolBytes s (slotBase h) 65408) (fieldOf w 59 28)
        (modelOf s (fieldOf w 27 16)).keyId (runtimeNonce s (modelKey s (modelOf s (fieldOf w 27 16))).salt)
        (modelKey s (modelOf s (fieldOf w 27 16))).key).length) ∧
      t.core.seals = s.core.seals + 1 ∧ t.mem.hbm = s.mem.hbm ∧ (slotOf t (fieldOf w 81 72)).tag = none ∧
      (slotOf t (fieldOf w 81 72)).count = slotCount (pushesOf w) ∧ (∀ x, x ≠ fieldOf w 81 72 → slotOf t x = slotOf s x) ∧
      t.core.hqs = s'.core.hqs ∧ Launched s t 3 (flightOf s 3 w (some (fieldOf w 81 72)) (relSlots w h) false) ∧
      Unchanged [.core, .mem, .hqs] s t) ∧
  (∀ (s s' : State) (op : Nat) (w : Insn) (h : Nat) (c : Instr), InsnMay s 3 w op → skipped s w = false → HandleTaken s 3 w 60 h s' →
    (op = 0x40 ∧ c = .codecOpen w ∨ op = 0x41 ∧ c = .codecSeal w) →
    (slotOf s h).count = 0 ∨ (slotOf s (fieldOf w 81 72)).count ≠ 0 ∨
      op = 0x41 ∧ (slotOf s h).tag ≠ some (modelKey s (modelOf s (fieldOf w 27 16))).owner →
    Runs c s fun t => t.core.halted = true) ∧
  (∀ (s : State) (op : Nat) (w : Insn) (c : Instr), InsnMay s 3 w op → skipped s w = false → HandleMissing s 3 w 60 →
    (op = 0x40 ∧ c = .codecOpen w ∨ op = 0x41 ∧ c = .codecSeal w) → Runs c s fun t => t.core.halted = true)

/-- SAPIN.LAND and SAP_LATE (from R133, R215, R222): with no chunk of its port waiting a landing takes its free slot, untagged and with its count, and goes in flight; a held slot halts the core; a land entry whose block has landed passes its OFFSET unharmed; one whose block has not halts the core and counts as late. SAPOUT.LAUNCH, SAPOUT.FORWARD and SAP_SLOT (from R133, R135, R214, R216; log 97): a send of a held, untagged slot, named or popped, goes in flight with nothing sent while its OFFSET is to come or its port takes no chunk; its OFFSET starts it, and where its port takes a chunk, its turn has come and the chunk has landed, a block of one chunk is sent; a send of a free or tagged slot halts the core. -/
def Obligations.SapInstructions : Prop :=
  (∀ (s : State) (w : Insn), InsnMay s 1 w 0x20 → skipped s w = false → (slotOf s (fieldOf w 41 32)).count = 0 →
    (∀ c ∈ s.sap.waiting, c.port ≠ ((schedAt s (fieldOf w 31 16)).map (·.port)).getD 0) → (∀ f ∈ (queueOf s 1).flights, f.finished = false) →
    sendWorks s = [] → Runs (.sapinLand w) s fun t =>
      (slotOf t (fieldOf w 41 32)).tag = none ∧ (slotOf t (fieldOf w 41 32)).count = slotCount (pushesOf w) ∧
      (∀ x, x ≠ fieldOf w 41 32 → slotOf t x = slotOf s x) ∧ PoolKept s t (slotBase (fieldOf w 41 32)) 65536 ∧ t.mem.hbm = s.mem.hbm ∧
      Launched s t 1 { flightOf s 1 w none [] false with
        pushes := (if bitAt w.toNat 47 then [pushField w 48] else [pushField w 42, pushField w 48]).filterMap
          (fun p => p.map (fun hq => (hq, fieldOf w 41 32)))
        work := .land (landWorkOf w) } ∧ t.core.hqs = s.core.hqs ∧ Unchanged [.core, .mem] s t) ∧
  (∀ (s : State) (w : Insn), InsnMay s 1 w 0x20 → skipped s w = false → (slotOf s (fieldOf w 41 32)).count ≠ 0 →
    Runs (.sapinLand w) s fun t => t.core.halted = true) ∧
  (∀ (s : State) (i : Nat) (e : SchedEntry), schedAt s i = some e → e.kind = 2 → beforeBoundary s (offsetNs s e.offset) = true →
    landDone s i e = true → exec (.sapLate i) s = .next (advanceTo s (offsetNs s e.offset))) ∧
  (∀ (s : State) (i : Nat) (e : SchedEntry), schedAt s i = some e → e.kind = 2 → beforeBoundary s (offsetNs s e.offset) = true →
    landDone s i e = false → Runs (.sapLate i) s fun t => t.core.halted = true ∧ t.sap.late = satAdd s.sap.late 1) ∧
  (∀ (s s' : State) (op : Nat) (w : Insn) (c : Instr) (h : Nat) (e : SchedEntry), InsnMay s 2 w op → skipped s w = false →
    (op = 0x30 ∧ c = .sapoutLaunch w ∨ op = 0x31 ∧ c = .sapoutForward w) → HandleTaken s 2 w 32 h s' → (slotOf s h).count ≠ 0 →
    (slotOf s h).tag = none → schedAt s (fieldOf w 31 16) = some e → s.time.now < offsetNs s e.offset ∨ portTakesChunk s e.port = false →
    sendWorks s = [] → Runs c s fun t =>
      Launched s t 2 { flightOf s 2 w none (relSlots w h) false with
        work := .send { sched := fieldOf w 31 16, slot := h, started := decide (offsetNs s e.offset ≤ s.time.now), sent := 0, acked := 0 } } ∧
      t.core.slots = s.core.slots ∧ t.core.hqs = s'.core.hqs ∧ Unchanged [.core, .hqs] s t) ∧
  (∀ (s s' : State) (op : Nat) (w : Insn) (c : Instr) (h : Nat), InsnMay s 2 w op → skipped s w = false →
    (op = 0x30 ∧ c = .sapoutLaunch w ∨ op = 0x31 ∧ c = .sapoutForward w) → HandleTaken s 2 w 32 h s' →
    (slotOf s h).count = 0 ∨ (slotOf s h).tag ≠ none → Runs c s fun t => t.core.halted = true) ∧
  (∀ (s : State) (op : Nat) (w : Insn) (c : Instr), InsnMay s 2 w op → skipped s w = false → HandleMissing s 2 w 32 →
    (op = 0x30 ∧ c = .sapoutLaunch w ∨ op = 0x31 ∧ c = .sapoutForward w) → Runs c s fun t => t.core.halted = true) ∧
  (∀ (s : State) (i : Nat) (e : SchedEntry) (fl : Flight) (w : SendWork), schedAt s i = some e → e.kind ≠ 2 →
    beforeBoundary s (offsetNs s e.offset) = true → (queueOf s 2).flights = [fl] → fl.work = .send w → w.sched = i → w.started = false →
    portTakesChunk s e.port = false → exec (.sapSlot i) s = .next (setQueue (advanceTo s (offsetNs s e.offset)) 2
      { queueOf s 2 with flights := [{ fl with work := .send { w with started := true } }] })) ∧
  (∀ (s : State) (i : Nat) (e : SchedEntry) (fl : Flight) (w : SendWork), schedAt s i = some e → e.kind ≠ 2 →
    beforeBoundary s (offsetNs s e.offset) = true → (queueOf s 2).flights = [fl] → fl.work = .send w → w.sched = i → w.started = false →
    portTakesChunk s e.port = true → e.port < 8 → sendTurn s e.port = some i → w.sent = 0 → 1 ≤ e.len → e.len ≤ 64 → 0 < landedOf s w.slot →
    s.mem.poolBad = [] → poisonedUnit s.mem.poolPoison [(slotBase w.slot, 64 * e.len)] = none → Runs (.sapSlot i) s fun t =>
      (queueOf t 2).flights = [{ fl with work := .send { w with started := true, sent := 1 } }] ∧
      t.sap = { s.sap with bytesOut := wrapAdd64 s.sap.bytesOut (64 * e.len)
                           sendNext := setAt s.sap.sendNext e.port (getAt 0 s.sap.sendNext e.port + 1) } ∧
      (∃ v ∈ (portOf t e.port).units, v.sched = some i ∧ v.peer = e.peer ∧ v.msg = 0) ∧ OtherPorts s t e.port ∧
      Unchanged [.core, .sap, .link, .time, .out] s t)

/-- CHUNK (from R149, R215, R223, R238): in order and whole, with no plan running, a chunk is acknowledged, counted and discarded; the chunk that the schedule expects next waits for its landing, or lands in the slot of the SAPIN.LAND in flight for it; another one, or one of another plan set, halts the core; a duplicate, an early or a damaged one leaves sap, core, memory and the expected LSN as they were. -/
def Obligations.ChunkArrival : Prop :=
  (∀ (s : State) (p : Nat) (u : RawUnit), MsgMay s p u 0 → chunkDamaged u = false → InOrder s p u → runningPlan s = none →
    Runs (.chunk p u) s fun t =>
      t.sap = { s.sap with discards := setAt s.sap.discards p (getAt 0 s.sap.discards p + 1) } ∧ LsnTaken s t p u ∧
      OtherPorts s t p ∧ Unchanged [.sap, .link, .out] s t) ∧
  (∀ (s : State) (p i : Nat) (u : RawUnit) (a : Plan), MsgMay s p u 0 → chunkDamaged u = false → InOrder s p u → runningPlan s = some a →
    expectedPlan s (headOf u).tick = some (headOf u).plan → chunkExpected s (chunkOf p u (headOf u)) = some (true, i) →
    (∀ e j, landEntry s p 0 = some (e, j) → landFlight s j = none) → (∀ f ∈ (queueOf s 1).flights, f.finished = false) → sendWorks s = [] →
    Runs (.chunk p u) s fun t =>
      t.sap = { s.sap with waiting := s.sap.waiting ++ [chunkOf p u (headOf u)] } ∧ LsnTaken s t p u ∧ OtherPorts s t p ∧
      Unchanged [.sap, .link, .out] s t) ∧
  (∀ (s : State) (p i : Nat) (u : RawUnit) (a : Plan) (fl : Flight) (w : LandWork) (c : Chunk), MsgMay s p u 0 → chunkDamaged u = false →
    InOrder s p u → runningPlan s = some a → c = chunkOf p u (headOf u) → expectedPlan s (headOf u).tick = some (headOf u).plan →
    chunkExpected s c = some (true, i) → (∀ x ∈ s.sap.waiting, x.port ≠ p) → s.core.queues.length = 8 → (queueOf s 1).flights = [fl] →
    fl.finished = false → fl.work = .land w → w.sched = i → w.early = false → c.last = false → sendWorks s = [] → Runs (.chunk p u) s fun t =>
      (∀ k b, c.data[k]? = some b → poolByte t (slotBase w.dst + 4096 * c.index + k) = b) ∧
      PoolKept s t (slotBase w.dst + 4096 * c.index) c.data.length ∧
      t.sap = { s.sap with bytesIn := wrapAdd64 s.sap.bytesIn c.data.length } ∧
      queueOf t 1 = { queueOf s 1 with flights := [{ fl with work := .land { w with landed := w.landed + 1 } }] } ∧
      t.core.slots = s.core.slots ∧ LsnTaken s t p u ∧ OtherPorts s t p ∧ Unchanged [.sap, .link, .out, .core, .mem] s t) ∧
  (∀ (s : State) (p i : Nat) (u : RawUnit) (a : Plan), MsgMay s p u 0 → chunkDamaged u = false → InOrder s p u → runningPlan s = some a →
    expectedPlan s (headOf u).tick ≠ some (headOf u).plan ∨ chunkExpected s (chunkOf p u (headOf u)) = some (false, i) ∨
      chunkExpected s (chunkOf p u (headOf u)) = none →
    Runs (.chunk p u) s fun t => t.core.halted = true) ∧
  (∀ (s : State) (p : Nat) (u : RawUnit), MsgMay s p u 0 → chunkDamaged u = true ∨ ¬ InOrder s p u → sendWorks s = [] →
    Runs (.chunk p u) s fun t =>
      t.sap = s.sap ∧ t.core = s.core ∧ t.mem = s.mem ∧ tabGet 0 (portOf t p).lsnRx (srcOf u) = tabGet 0 (portOf s p).lsnRx (srcOf u) ∧
      OtherPorts s t p ∧ Unchanged [.link, .out] s t)

/-- PORT_TRAINING_START, PORT_TRAINED, PORT_TRAINING_TIMEOUT, HELLO and HELLO_ACK (from R51, R61, R237, R246, R256; log 88): a port with its clock trains, its domain on; trained it enters DISCOVERY with an empty hop and sends HELLO with a wait of 1 to 2 ms; not trained in time it is DARK and a chip fault of kind 9 is recorded; each repeat sends HELLO and raises ATTEMPT; an answer of the right plane and flags that gives the chip its first ID, or its own again, makes the port ACTIVE with the partner's credits, less the one that ID_CONFIRM takes, and LSNs at 0; any other answer makes the port MISCABLED. -/
def Obligations.PortTrainingAndDiscovery : Prop :=
  (∀ (s : State) (p : Nat), p < 8 → s.link.ports.length = 8 → s.boot.phase = .firmware → mainOn s = true → (portOf s p).st = .dark →
    (portOf s p).settled = false → portClock s p = true → testMode s = false → Runs (.portTrainingStart p) s fun t =>
      portOf t p = { portOf s p with st := .training, gated := false } ∧
      t.pwr = { s.pwr with domains := s.pwr.domains ||| BitVec.ofNat 19 (2 ^ (8 + p)) } ∧ OtherPorts s t p ∧
      Unchanged [.link, .pwr, .host, .err, .out] s t) ∧
  (∀ (s : State) (p : Nat), p < 8 → s.link.ports.length = 8 → (portOf s p).st = .training → Runs (.portTrained p) s fun t =>
      (portOf t p).st = .discovery ∧ (portOf t p).settled = true ∧ (portOf t p).helloI = 0 ∧ (portOf t p).attempt = 0 ∧
      1000 ≤ (portOf t p).helloWait ∧ (portOf t p).helloWait ≤ 2000 ∧ (portOf t p).units = [] ∧ (portOf t p).txCredit = 0 ∧
      (∃ u, t.out.head? = some (.unit p u) ∧ leAt u.head 1 1 = 0x40) ∧ OtherPorts s t p ∧
      Unchanged [.link, .host, .err, .out, .draws] s t) ∧
  (∀ (s : State) (p : Nat), p < 8 → s.link.ports.length = 8 → (portOf s p).st = .training → Runs (.portTrainingTimeout p) s fun t =>
      portOf t p = { portOf s p with st := .dark, settled := true } ∧ FaultStored s t 9 ∧ OtherPorts s t p ∧
      Unchanged [.link, .host, .stw, .err, .out, .draws, .ras] s t) ∧
  (∀ (s : State) (p : Nat), p < 8 → s.link.ports.length = 8 → (portOf s p).st = .discovery → Runs (.hello p) s fun t =>
      (portOf t p).helloI = min ((portOf s p).helloI + 1) 4 ∧ (portOf t p).attempt = satAdd8 (portOf s p).attempt ∧
      (portOf t p).st = .discovery ∧ (∃ u, t.out.head? = some (.unit p u) ∧ leAt u.head 1 1 = 0x40) ∧ OtherPorts s t p ∧
      Unchanged [.link, .out, .draws] s t) ∧
  (∀ (s : State) (p id : Nat) (u : RawUnit), p < 8 → s.link.ports.length = 8 → mainOn s = true → (portOf s p).st = .discovery →
    headFault u = false → (headOf u).msg = 0x41 → id = bodyAt (headOf u) 33 1 * 128 + bodyAt (headOf u) 34 1 →
    (s.link.valid = true → s.link.chipId = id) → bodyAt (headOf u) 32 1 = p → bitAt (bodyAt (headOf u) 35 1) 0 = true →
    bitAt (bodyAt (headOf u) 35 1) 2 = false → sendWorks s = [] → Runs (.helloAck p u) s fun t =>
      t.link.chipId = id ∧ t.link.valid = true ∧ (portOf t p).st = .active ∧ (portOf t p).txCredit = bodyAt (headOf u) 36 2 - 1 ∧
      (portOf t p).lsnTx = [] ∧ (portOf t p).lsnRx = [] ∧ (portOf t p).lastGrove = bodyAt (headOf u) 33 1 ∧
      (portOf t p).lastSlot = bodyAt (headOf u) 34 1 ∧ OtherPorts s t p ∧ Unchanged [.link, .host, .err, .out, .chip] s t) ∧
  (∀ (s : State) (p : Nat) (u : RawUnit), p < 8 → s.link.ports.length = 8 → mainOn s = true → (portOf s p).st = .discovery →
    headFault u = false → (headOf u).msg = 0x41 → sendWorks s = [] →
    bodyAt (headOf u) 32 1 ≠ p ∨ bitAt (bodyAt (headOf u) 35 1) 0 = false ∨ bitAt (bodyAt (headOf u) 35 1) 2 = true ∨
      s.link.valid = true ∧ s.link.chipId ≠ bodyAt (headOf u) 33 1 * 128 + bodyAt (headOf u) 34 1 → Runs (.helloAck p u) s fun t =>
      (portOf t p).st = .miscabled ∧ t.link.chipId = s.link.chipId ∧ t.link.valid = s.link.valid ∧ OtherPorts s t p ∧
      Unchanged [.link, .host, .err, .out] s t)

/-- ACK, NAK, RETRY_AFTER, RETRY_AFTER_EXPIRY and REPLAY_TIMEOUT (from R236, R238, R239, R241, R249): an ACK frees exactly the units it covers; a NAK sends the units it covers again, as the credits allow, and counts the transmission; RETRY_AFTER makes its unit wait, until its expiry sends the units from it on again without a count; a timeout sends the units from the oldest on again until its fourth transmission has gone unanswered, which is a link fault for a plan's unit and moves a steward message to another ACTIVE port. -/
def Obligations.AcknowledgementAndReplay : Prop :=
  (∀ (s : State) (p : Nat) (u : RawUnit), MsgMay s p u 0x10 → LinkStill s p → (queueOf s 2).flights = [] → Runs (.ack p u) s fun t =>
      (portOf t p).units = (portOf s p).units.filter (fun v => !ackCovers (srcOf u) (bodyAt (headOf u) 24 2) v) ∧
      OtherPorts s t p ∧ Unchanged [.link] s t) ∧
  (∀ (s : State) (p : Nat) (u : RawUnit), MsgMay s p u 0x11 → LinkStill s p →
    (((portOf s p).units.filter (replayCovers (srcOf u) (bodyAt (headOf u) 24 2))).map (fun v => unitFlits v.u)).sum ≤ (portOf s p).txCredit →
    Runs (.nak p u) s fun t =>
      (portOf t p).units = (portOf s p).units.map (fun v =>
        if replayCovers (srcOf u) (bodyAt (headOf u) 24 2) v then { v with tries := v.tries + 1, retryWait := false } else v) ∧
      t.out.length = s.out.length + ((portOf s p).units.filter (replayCovers (srcOf u) (bodyAt (headOf u) 24 2))).length ∧
      (portOf t p).naks = satAdd (portOf s p).naks 1 ∧ OtherPorts s t p ∧ Unchanged [.link, .sap, .out] s t) ∧
  (∀ (s : State) (p : Nat) (u : RawUnit), MsgMay s p u 0x12 → LinkStill s p → Runs (.retryAfter p u) s fun t =>
      (portOf t p).units = (portOf s p).units.map (fun v =>
        if v.peer = srcOf u ∧ v.tag ≠ tagNone ∧ v.lsn = bodyAt (headOf u) 24 2 then { v with retryWait := true } else v) ∧
      OtherPorts s t p ∧ Unchanged [.link] s t) ∧
  (∀ (s : State) (p peer : Nat) (v : OutUnit), carries s p = true → AllSent s p →
    (unackedTo (portOf s p) peer).find? (·.retryWait) = some v →
    (((portOf s p).units.filter (replayCovers peer v.lsn)).map (fun x => unitFlits x.u)).sum ≤ (portOf s p).txCredit →
    Runs (.retryAfterExpiry p peer) s fun t =>
      (portOf t p).units = (portOf s p).units.map (fun x => if replayCovers peer v.lsn x then { x with retryWait := false } else x) ∧
      t.out.length = s.out.length + ((portOf s p).units.filter (replayCovers peer v.lsn)).length ∧
      OtherPorts s t p ∧ Unchanged [.link, .sap, .out] s t) ∧
  (∀ (s : State) (p peer : Nat) (v : OutUnit) (rest : List OutUnit), carries s p = true → AllSent s p →
    unackedTo (portOf s p) peer = v :: rest → v.retryWait = false → v.tries < 4 →
    (((portOf s p).units.filter (replayCovers peer v.lsn)).map (fun x => unitFlits x.u)).sum ≤ (portOf s p).txCredit →
    Runs (.replayTimeout p peer) s fun t =>
      (portOf t p).units = (portOf s p).units.map (fun x =>
        if replayCovers peer v.lsn x then { x with tries := x.tries + 1, retryWait := false } else x) ∧
      t.out.length = s.out.length + ((portOf s p).units.filter (replayCovers peer v.lsn)).length ∧
      OtherPorts s t p ∧ Unchanged [.link, .sap, .out] s t) ∧
  (∀ (s : State) (p peer : Nat) (v : OutUnit) (rest : List OutUnit), carries s p = true → unackedTo (portOf s p) peer = v :: rest →
    v.retryWait = false → 4 ≤ v.tries → planUnit v = true → s.core.active.isSome = true →
    Runs (.replayTimeout p peer) s fun t => t.core.halted = true) ∧
  (∀ (s : State) (p q peer : Nat) (v : OutUnit) (rest : List OutUnit), carries s p = true → s.link.ports.length = 8 →
    unackedTo (portOf s p) peer = v :: rest → v.retryWait = false → 4 ≤ v.tries → planUnit v = false →
    (portsAfter s p).find? (fun x => !(p :: v.refused).contains x) = some q → Runs (.replayTimeout p peer) s fun t =>
      (∃ x ∈ (portOf t q).units, x.peer = peer ∧ x.msg = v.msg ∧ x.refused = p :: v.refused) ∧ Unchanged [.link, .out] s t)

/-- KEEPALIVE, KEEPALIVE_SEND, UNREACHABLE, HOP_DOWN, PORT_OFF and DRAIN_TIMEOUT (from R236, R237, R240, R241, R249, R263): a keepalive brings its credits and takes one flit of the receive buffer; with a credit and nothing else to send one goes out; a unit of the plan that cannot reach its chip stops the plan, a steward message goes on another ACTIVE port, and a SYNC_REQ that cannot reach the parent moves on; a hop that goes down trains again with its units, credits and LSNs forgotten, and stops a plan that uses it; an empty draining port with a credit goes DARK; one that is not empty in time is ACTIVE again. -/
def Obligations.HopsUpAndDown : Prop :=
  (∀ (s : State) (p : Nat) (u : RawUnit), MsgMay s p u 0x01 → LinkStill s p → Runs (.keepalive p u) s fun t =>
      portOf t p = { portOf s p with txCredit := (portOf s p).txCredit + creditsIn u (headOf u), owed := (portOf s p).owed + 1 } ∧
      OtherPorts s t p ∧ Unchanged [.link] s t) ∧
  (∀ (s : State) (p : Nat), carries s p = true → AllSent s p → (∀ v ∈ (portOf s p).units, v.msg ≠ 0x01) → 1 ≤ (portOf s p).txCredit →
    Runs (.keepaliveSend p) s fun t =>
      (∃ u, t.out = .unit p u :: s.out ∧ leAt u.head 1 1 = 0x01) ∧ (portOf t p).units = (portOf s p).units ∧
      (portOf t p).txCredit = (portOf s p).txCredit - 1 ∧ OtherPorts s t p ∧ Unchanged [.link, .out] s t) ∧
  (∀ (s : State) (p : Nat) (u : RawUnit) (v : OutUnit), MsgMay s p u 0x46 → (unackedTo (portOf s p) (bodyAt (headOf u) 24 2)).find?
      (fun v => v.lsn == bodyAt (headOf u) 26 2) = some v → planUnit v = true → s.core.active.isSome = true →
    Runs (.unreachable p u) s fun t => t.core.halted = true) ∧
  (∀ (s : State) (p q : Nat) (u : RawUnit) (v : OutUnit), MsgMay s p u 0x46 → (unackedTo (portOf s p) (bodyAt (headOf u) 24 2)).find?
      (fun v => v.lsn == bodyAt (headOf u) 26 2) = some v → planUnit v = false → sendWorks s = [] →
    (portsAfter s p).find? (fun x => !(p :: v.refused).contains x) = some q → Runs (.unreachable p u) s fun t =>
      (∃ x ∈ (portOf t q).units, x.peer = bodyAt (headOf u) 24 2 ∧ x.msg = v.msg ∧ x.refused = p :: v.refused) ∧ Unchanged [.link, .out] s t) ∧
  (∀ (s : State) (p q xid : Nat) (u : RawUnit), MsgMay s p u 0x46 → (unackedTo (portOf s p) (bodyAt (headOf u) 24 2)).find?
      (fun v => v.lsn == bodyAt (headOf u) 26 2) = none → bodyAt (headOf u) 26 2 = 0 → sendWorks s = [] →
    s.time.parent = some (bodyAt (headOf u) 24 2, p) → s.time.request = some xid →
    portTo { s with time := { s.time with barred := insertNat p s.time.barred } } (bodyAt (headOf u) 24 2) = some q →
    Runs (.unreachable p u) s fun t =>
      t.time = { s.time with barred := insertNat p s.time.barred, parent := some (bodyAt (headOf u) 24 2, q) } ∧
      Unchanged [.link, .time, .out] s t) ∧
  (∀ (s : State) (p : Nat), p < 8 → s.link.ports.length = 8 → (portOf s p).st ≠ .dark → (portOf s p).st ≠ .training → planUses s p = false →
    Runs (.hopDown p) s fun t =>
      (portOf t p).st = .training ∧ (portOf t p).downs = satAdd (portOf s p).downs 1 ∧ (portOf t p).lsnTx = [] ∧
      (portOf t p).lsnRx = [] ∧ (portOf t p).txCredit = 0 ∧ (portOf t p).units = [] ∧
      ((∀ v ∈ (portOf s p).units, v.tag = tagNone ∨ planUnit v = true) → OtherPorts s t p) ∧ Unchanged [.link, .host, .err, .out] s t) ∧
  (∀ (s : State) (p : Nat), p < 8 → (portOf s p).st ≠ .dark → (portOf s p).st ≠ .training → planUses s p = true →
    Runs (.hopDown p) s fun t => t.core.halted = true) ∧
  (∀ (s : State) (p : Nat), p < 8 → s.link.ports.length = 8 → (portOf s p).st = .drain → portEmpty s p = true → 0 < (portOf s p).txCredit →
    Runs (.portOff p) s fun t => (portOf t p).st = .dark ∧ (portOf t p).txCredit = (portOf s p).txCredit - 1 ∧ OtherPorts s t p ∧
      Unchanged [.link, .host, .err, .out] s t) ∧
  (∀ (s : State) (p : Nat), p < 8 → s.link.ports.length = 8 → (portOf s p).st = .drain →
    portEmpty s p = false ∨ (portOf s p).txCredit = 0 →
    Runs (.drainTimeout p) s fun t => (portOf t p).st = .active ∧ OtherPorts s t p ∧ Unchanged [.link, .host, .err, .out] s t)

/-- KNOT_SIGNAL_MESSAGE (from R149, R174, R176, R179, R185): a signal of the present tick adds its amount to an epoch knot modulo 2^16 and changes no other knot, or moves a credit knot that no queue waits on by its amount, and halts the core where that leaves the knot's range; one of the next tick is held; one of a tick that was skipped is dropped; one of any other tick, or of another plan, halts the core; with no plan running it changes no knot. -/
def Obligations.RemoteKnotSignals : Prop :=
  (∀ (s : State) (p : Nat) (u : RawUnit) (a : Plan), MsgMay s p u 0x20 → InOrder s p u → sendWorks s = [] → runningPlan s = some a →
    expectedPlan s (headOf u).tick = some (headOf u).plan → (headOf u).tick = s.tick.index → bodyAt (headOf u) 24 1 < 32 →
    s.knot.vals.length = 48 → Runs (.knotSignalMessage p u) s fun t =>
      knotOf t (bodyAt (headOf u) 24 1) = (knotOf s (bodyAt (headOf u) 24 1) + bodyAt (headOf u) 26 2) % 65536 ∧
      (∀ j, j ≠ bodyAt (headOf u) 24 1 → knotOf t j = knotOf s j) ∧ LsnTaken s t p u ∧ OtherPorts s t p ∧
      Unchanged [.knot, .core, .link, .out] s t) ∧
  (∀ (s : State) (p k n : Nat) (u : RawUnit) (a : Plan), MsgMay s p u 0x20 → InOrder s p u → sendWorks s = [] → runningPlan s = some a →
    expectedPlan s (headOf u).tick = some (headOf u).plan → (headOf u).tick = s.tick.index → k = bodyAt (headOf u) 24 1 → 32 ≤ k →
    n = bodyAt (headOf u) 26 2 % 4096 → s.knot.vals.length = 48 → (∀ q, (queueOf s q).knot.map (·.1) ≠ some k) →
    (if bitAt (bodyAt (headOf u) 26 2) 15 then n ≤ knotOf s k else knotOf s k + n ≤ knotLimit s k) →
    Runs (.knotSignalMessage p u) s fun t =>
      knotOf t k = (if bitAt (bodyAt (headOf u) 26 2) 15 then knotOf s k - n else knotOf s k + n) ∧
      (∀ j, j ≠ k → knotOf t j = knotOf s j) ∧ t.core = s.core ∧ LsnTaken s t p u ∧ OtherPorts s t p ∧ Unchanged [.knot, .link, .out] s t) ∧
  (∀ (s : State) (p k n : Nat) (u : RawUnit) (a : Plan), MsgMay s p u 0x20 → InOrder s p u → runningPlan s = some a →
    expectedPlan s (headOf u).tick = some (headOf u).plan → (headOf u).tick = s.tick.index → k = bodyAt (headOf u) 24 1 → 32 ≤ k →
    n = bodyAt (headOf u) 26 2 % 4096 → (if bitAt (bodyAt (headOf u) 26 2) 15 then knotOf s k < n else knotLimit s k < knotOf s k + n) →
    Runs (.knotSignalMessage p u) s fun t => t.core.halted = true) ∧
  (∀ (s : State) (p : Nat) (u : RawUnit) (a : Plan), MsgMay s p u 0x20 → InOrder s p u → sendWorks s = [] → runningPlan s = some a →
    expectedPlan s (headOf u).tick = some (headOf u).plan → (headOf u).tick ≠ s.tick.index → (headOf u).tick = nextTick s →
    Runs (.knotSignalMessage p u) s fun t =>
      t.knot = { s.knot with heldSignals := s.knot.heldSignals ++
        [{ port := p, src := srcOf u, knot := bodyAt (headOf u) 24 1, amount := bodyAt (headOf u) 26 2, setId := (headOf u).plan
           tick := (headOf u).tick }] } ∧
      LsnTaken s t p u ∧ OtherPorts s t p ∧ Unchanged [.knot, .link, .out] s t) ∧
  (∀ (s : State) (p : Nat) (u : RawUnit) (a : Plan), MsgMay s p u 0x20 → InOrder s p u → sendWorks s = [] → runningPlan s = some a →
    expectedPlan s (headOf u).tick = some (headOf u).plan → s.tick.index < (headOf u).tick → (headOf u).tick < nextTick s →
    Runs (.knotSignalMessage p u) s fun t => LsnTaken s t p u ∧ OtherPorts s t p ∧ Unchanged [.link, .out] s t) ∧
  (∀ (s : State) (p : Nat) (u : RawUnit) (a : Plan), MsgMay s p u 0x20 → InOrder s p u → runningPlan s = some a →
    expectedPlan s (headOf u).tick ≠ some (headOf u).plan ∨ (headOf u).tick < s.tick.index ∧ (headOf u).tick ≠ nextTick s ∨
      nextTick s < (headOf u).tick ∧ (headOf u).tick ≠ s.tick.index →
    Runs (.knotSignalMessage p u) s fun t => t.core.halted = true) ∧
  (∀ (s : State) (p : Nat) (u : RawUnit), MsgMay s p u 0x20 → InOrder s p u → runningPlan s = none →
    Runs (.knotSignalMessage p u) s fun t => LsnTaken s t p u ∧ OtherPorts s t p ∧ Unchanged [.link, .host, .err, .out] s t)

/-- COMMIT_CHECK, COMMIT_ABORT and RING_STOP (from R147, R184, R286): a check is kept until this chip commits; the last matching one arms the plan for its boundary, and one that differs ends the commit with the plan still loaded; an abort forgets its sender's check, disarms a plan armed with that sender and leaves it loaded; a stop of a ring member halts every queue here and sends no stop of its own; one of another chip, or to a halted chip, changes nothing but its link. -/
def Obligations.CommitAndStopMessages : Prop :=
  (∀ (s : State) (p : Nat) (u : RawUnit), MsgMay s p u 0x21 → InOrder s p u → sendWorks s = [] → commitRuns s = none →
    Runs (.commitCheck p u) s fun t =>
      t.core = { s.core with heard := s.core.heard.filter (fun x => x.chip != srcOf u) ++
        [{ chip := srcOf u, commitId := bodyAt (headOf u) 24 8, n := bodyAt (headOf u) 32 6, quarters := bodyAt (headOf u) 38 1 }] } ∧
      LsnTaken s t p u ∧ OtherPorts s t p ∧ Unchanged [.core, .link, .out, .plan] s t) ∧
  (∀ (s : State) (p n : Nat) (d : Desc) (u : RawUnit), MsgMay s p u 0x21 → InOrder s p u → sendWorks s = [] → commitRuns s = some (d, n) →
    standbyPartners s = [srcOf u] → bodyAt (headOf u) 24 8 = standbyId s → bodyAt (headOf u) 32 6 = n →
    s.core.standby.map (·.quarters) = some (bodyAt (headOf u) 38 1) → Runs (.commitCheck p u) s fun t =>
      t.core.armed = true ∧ t.core.commitN = n ∧ t.core.standby.map (·.setId) = s.core.standby.map (·.setId) ∧
      t.core.active = s.core.active ∧ t.core.queues = s.core.queues ∧ LsnTaken s t p u ∧
      Unchanged [.core, .link, .host, .err, .out, .admin, .plan] s t) ∧
  (∀ (s : State) (p n : Nat) (d : Desc) (u : RawUnit), MsgMay s p u 0x21 → InOrder s p u → sendWorks s = [] → commitRuns s = some (d, n) →
    srcOf u ∈ standbyPartners s → bodyAt (headOf u) 24 8 ≠ standbyId s ∨ bodyAt (headOf u) 32 6 ≠ n ∨
      s.core.standby.map (·.quarters) ≠ some (bodyAt (headOf u) 38 1) → Runs (.commitCheck p u) s fun t =>
      commitRuns t = none ∧ t.core.armed = s.core.armed ∧ t.core.standby = s.core.standby ∧ t.core.active = s.core.active ∧
      t.core.queues = s.core.queues ∧ Unchanged [.core, .link, .host, .err, .out, .admin, .plan] s t) ∧
  (∀ (s : State) (p : Nat) (u : RawUnit), MsgMay s p u 0x22 → InOrder s p u → sendWorks s = [] → s.core.armed = true →
    standbyId s = bodyAt (headOf u) 24 8 → s.core.commitN = bodyAt (headOf u) 32 6 → srcOf u ∈ standbyPartners s →
    s.tick.index < s.core.commitN → Runs (.commitAbort p u) s fun t =>
      t.core.armed = false ∧ t.core.standby = s.core.standby ∧ t.core.active = s.core.active ∧ t.core.queues = s.core.queues ∧
      Unchanged [.core, .lib, .link, .host, .err, .out, .plan] s t) ∧
  (∀ (s : State) (p : Nat) (u : RawUnit), MsgMay s p u 0x22 → InOrder s p u → sendWorks s = [] → s.core.armed = false →
    Runs (.commitAbort p u) s fun t =>
      t.core = { s.core with heard := s.core.heard.filter (fun c =>
        !(c.chip == srcOf u && c.commitId == bodyAt (headOf u) 24 8 && c.n == bodyAt (headOf u) 32 6)) } ∧
      Unchanged [.core, .link, .out, .plan] s t) ∧
  (∀ (s : State) (p : Nat) (u : RawUnit), MsgMay s p u 0x23 → InOrder s p u → s.core.halted = false → srcOf u ∈ ringPartners s →
    Runs (.ringStop p u) s fun t =>
      t.core.halted = true ∧ t.core.stopReason = 0 ∧ (∀ q ∈ t.core.queues, q.st = .halted ∧ q.flights = []) ∧
      t.core.active = s.core.active ∧ t.mem = s.mem) ∧
  (∀ (s : State) (p : Nat) (u : RawUnit), MsgMay s p u 0x23 → InOrder s p u → sendWorks s = [] →
    srcOf u ∉ ringPartners s ∨ s.core.halted = true →
    Runs (.ringStop p u) s fun t => LsnTaken s t p u ∧ OtherPorts s t p ∧ Unchanged [.link, .out] s t)

/-- PEER_UP and PEER_DOWN (from R237, R241, R249, R255, R258): a report sets or clears its plane for its chip, sets both LSNs for that chip on the plane's port to 0, and leaves grove time and its state as they were; a chip that a running plan needs on that plane, down, stops the plan. PEER_PROBE, PEER_ACK and PEER_PROBE_TIMEOUT (from R248): a probe is answered and changes only its link; the last answer ends the slice check with the status of the first failing pair; an unanswered probe is sent again up to three times, and then ends it. -/
def Obligations.PeerReportsAndProbes : Prop :=
  (∀ (s : State) (p chip plane : Nat) (u : RawUnit), MsgMay s p u 0x43 → sendWorks s = [] → chip = bodyAt (headOf u) 24 2 →
    plane = bodyAt (headOf u) 26 1 → Runs (.peerUp p u) s fun t =>
      tabFind t.link.up chip = some (upMask s chip plane true) ∧ (∀ c, c ≠ chip → tabFind t.link.up c = tabFind s.link.up c) ∧
      ((∀ v ∈ (portOf s plane).units, v.peer = chip → v.tag = tagNone ∨ planUnit v = true) →
        tabFind (portOf t plane).lsnTx chip = none ∧ tabFind (portOf t plane).lsnRx chip = none) ∧
      t.time.now = s.time.now ∧ t.time.st = s.time.st ∧ Unchanged [.link, .time, .host, .err, .out, .peers] s t) ∧
  (∀ (s : State) (p chip plane : Nat) (u : RawUnit), MsgMay s p u 0x44 → sendWorks s = [] → chip = bodyAt (headOf u) 24 2 →
    plane = bodyAt (headOf u) 26 1 → planUses s plane = false ∨ chip ∉ ringPartners s → Runs (.peerDown p u) s fun t =>
      tabFind t.link.up chip = some (upMask s chip plane false) ∧ (∀ c, c ≠ chip → tabFind t.link.up c = tabFind s.link.up c) ∧
      ((∀ v ∈ (portOf s plane).units, v.peer = chip → v.tag = tagNone ∨ planUnit v = true) →
        tabFind (portOf t plane).lsnTx chip = none ∧ tabFind (portOf t plane).lsnRx chip = none) ∧
      t.time.now = s.time.now ∧ t.time.st = s.time.st ∧ Unchanged [.link, .time, .host, .err, .out, .peers] s t) ∧
  (∀ (s : State) (p : Nat) (u : RawUnit), MsgMay s p u 0x44 → planUses s (bodyAt (headOf u) 26 1) = true →
    bodyAt (headOf u) 24 2 ∈ ringPartners s → Runs (.peerDown p u) s fun t => t.core.halted = true) ∧
  (∀ (s : State) (p : Nat) (u : RawUnit), MsgMay s p u 0x30 → InOrder s p u → sendWorks s = [] → Runs (.peerProbe p u) s fun t =>
      (∃ v ∈ (portOf t p).units, v.peer = srcOf u ∧ v.msg = 0x31) ∧ LsnTaken s t p u ∧ OtherPorts s t p ∧
      Unchanged [.link, .out] s t) ∧
  (∀ (s : State) (p : Nat) (d : Desc) (u : RawUnit) (l : List Probe), MsgMay s p u 0x31 → InOrder s p u → sendWorks s = [] →
    s.admin = some { d := d, work := .slice } → bodyAt (headOf u) 24 4 / 8 = srcOf u →
    l = probesAfter s (srcOf u) (bodyAt (headOf u) 24 4 % 8) (fun q => { q with answer := some (bitAt (bodyAt (headOf u) 28 1) 0) }) →
    Runs (.peerAck p u) s fun t =>
      t.link.probes = (if l.any (fun q => !probeDone q) then l else []) ∧ (l.any (fun q => !probeDone q) = true → t.admin = s.admin) ∧
      (l.any (fun q => !probeDone q) = false → ringLive (ringOf s 0 2) = false →
        t.admin = some { d := d, work := .finish (sliceStatus l).1 (sliceStatus l).2 none }) ∧
      LsnTaken s t p u ∧ OtherPorts s t p ∧ Unchanged [.link, .host, .err, .out, .admin, .peers] s t) ∧
  (∀ (s : State) (chip port : Nat) (q : Probe), s.link.probes.find? (fun q => q.chip == chip && q.port == port && !probeDone q) = some q →
    q.tries < 3 → Runs (.peerProbeTimeout chip port) s fun t =>
      t.link.probes = probesAfter s chip port (fun q => { q with tries := q.tries + 1 }) ∧
      (port < s.link.ports.length → ∃ v ∈ (portOf t port).units, v.peer = chip ∧ v.msg = 0x30) ∧
      OtherPorts s t port ∧ Unchanged [.link, .out, .peers] s t) ∧
  (∀ (s : State) (d : Desc) (chip port : Nat) (q : Probe) (l : List Probe), s.admin = some { d := d, work := .slice } →
    s.link.probes.find? (fun q => q.chip == chip && q.port == port && !probeDone q) = some q → 3 ≤ q.tries →
    l = probesAfter s chip port (fun q => { q with unreachable := true }) → exec (.peerProbeTimeout chip port) s = .next (
      if l.any (fun q => !probeDone q) then { s with link := { s.link with probes := l } }
      else adminDone { s with link := { s.link with probes := [] } } d (sliceStatus l).1 (sliceStatus l).2))

/-- ANNOUNCE, ANNOUNCE_SEND and ANNOUNCE_TIMEOUT (from R258 to R261): a chip without a root, or with a worse one, adopts the chip announced, unless a plan is active or armed and the times lie more than 1 µs apart; one not better than its root, and one that is a copy, changes no root; the time root announces on every ACTIVE port that has a credit; a candidate that hears none becomes the time root and boundaries run from its own time; a chip in SYNC or HOLDOVER that hears none has lost its root, and is the new one where it is grove root; a root that hears none goes on. -/
def Obligations.RootsOfGroveTime : Prop :=
  (∀ (s : State) (p x c : Nat) (u : RawUnit), MsgMay s p u 0x50 → sendWorks s = [] → c = bodyAt (headOf u) 32 2 → x = bodyAt (headOf u) 24 8 →
    c ≠ s.link.chipId → tabFind s.time.announces c ≠ some x → s.time.hasRoot = false ∨ c ≠ s.time.rootId ∧ betterRoot s x c = true →
    planBinds s = false ∨ farApart x s.time.now = false → Runs (.announce p u) s fun t =>
      t.time.hasRoot = true ∧ t.time.rootId = c ∧ t.time.st = (if s.time.st = .root then .sync else s.time.st) ∧
      t.time.now = s.time.now ∧ Unchanged [.time, .link, .host, .err, .out] s t) ∧
  (∀ (s : State) (p x c : Nat) (u : RawUnit), MsgMay s p u 0x50 → sendWorks s = [] → c = bodyAt (headOf u) 32 2 → x = bodyAt (headOf u) 24 8 →
    c = s.link.chipId ∨ tabFind s.time.announces c = some x ∨ s.time.hasRoot = true ∧ (c = s.time.rootId ∨ betterRoot s x c = false) ∨
      planBinds s = true ∧ farApart x s.time.now = true → Runs (.announce p u) s fun t =>
      (∃ l, t.time = { s.time with announces := l }) ∧ Unchanged [.time, .link, .host, .err, .out] s t) ∧
  (∀ s : State, s.time.st = .root → (∀ p ∈ activePorts s, AllSent s p ∧ 1 ≤ (portOf s p).txCredit) → Runs .announceSend s fun t =>
      t.out.length = s.out.length + (activePorts s).length ∧
      (∀ p ∈ activePorts s, ∃ u, Out.unit p u ∈ t.out ∧ leAt u.head 1 1 = 0x50) ∧ Unchanged [.link, .out] s t) ∧
  (∀ s : State, mainOn s = true → discovered s = true → s.time.st = .unsync → Runs .announceTimeout s fun t =>
      t.time.st = .root ∧ t.time.groveRoot = true ∧ t.time.hasRoot = true ∧ t.time.rootId = s.link.chipId ∧ t.time.parent = none ∧
      t.time.now = s.time.now ∧ t.tick.index = s.time.now / periodNs s ∧ Unchanged [.time, .tick, .str, .host, .err, .out] s t) ∧
  (∀ s : State, mainOn s = true → s.time.st = .sync ∨ s.time.st = .holdover → Runs .announceTimeout s fun t =>
      (t.time.st = .root ∧ t.time.groveRoot = true ∧ t.time.hasRoot = true ∧ t.time.rootId = s.link.chipId ∨
        t.time.st = s.time.st ∧ t.time.groveRoot = false ∧ t.time.hasRoot = false) ∧
      t.time.now = s.time.now ∧ Unchanged [.time, .host, .err, .out] s t) ∧
  (∀ s : State, s.time.st = .root → exec .announceTimeout s = .next s)

/-- SYNC_REQ_SEND, SYNC_REQ and SYNC_RESP (from R257, R262 to R267; log 17): a request carries the next XID to the parent through a port that reaches it; a request heard is answered without touching grove time; a sample that is not late and lies within 1 µs sets a trim of at most 200 ppm and makes the chip SYNC, its offset rounded to a neighbouring ns; one beyond it steps grove time where no plan is active or armed, and halts the core where one is; a late sample, and one of a parent without a time, is dropped. HOLDOVER and HOLDOVER_EXPIRY (from R266, R267): a chip that loses its parent goes on from SYNC to HOLDOVER and counts it; at the end of holdover it is UNSYNC, and a plan that was active has stopped. -/
def Obligations.ExchangeAndHoldover : Prop :=
  (∀ (s : State) (chip q p : Nat), s.time.parent = some (chip, q) → portTo s chip = some p → Runs .syncReqSend s fun t =>
      t.time = { s.time with xid := (s.time.xid + 1) % 2 ^ 32, request := some ((s.time.xid + 1) % 2 ^ 32), parent := some (chip, p) } ∧
      (AllSent s p → 1 ≤ (portOf s p).txCredit → ∃ u, t.out = .unit p u :: s.out ∧ leAt u.head 1 1 = 0x51) ∧
      OtherPorts s t p ∧ Unchanged [.time, .link, .out] s t) ∧
  (∀ (s : State) (p : Nat) (u : RawUnit), MsgMay s p u 0x51 → sendWorks s = [] → Runs (.syncReq p u) s fun t =>
      (AllSent s p → 1 ≤ (portOf s p).txCredit → ∃ x, t.out = .unit p x :: s.out ∧ leAt x.head 1 1 = 0x52) ∧
      OtherPorts s t p ∧ Unchanged [.link, .out] s t) ∧
  (∀ (s : State) (p : Nat) (u : RawUnit) (x : Sample), MsgMay s p u 0x52 → sendWorks s = [] → s.time.request = some (bodyAt (headOf u) 56 4) →
    x = sampleOf (bodyAt (headOf u) 24 8) (bodyAt (headOf u) 32 8) (bodyAt (headOf u) 40 8) s.time.now (bodyAt (headOf u) 48 4) (bodyAt (headOf u) 52 4) →
    slowSample s x = false → bodyAt (headOf u) 62 1 ≠ 0 → -32000 ≤ x.offset → x.offset ≤ 32000 → Runs (.syncResp p u) s fun t =>
      (∃ n, (n = x.offset / 32 ∨ x.offset % 32 ≠ 0 ∧ n = x.offset / 32 + 1) ∧ t.time.offset = n ∧ t.time.trim = max (-200) (min 200 n)) ∧
      t.time.request = none ∧ t.time.delays = (x.delay :: s.time.delays).take 16 ∧ t.time.st = .sync ∧ t.time.now = s.time.now ∧
      (s.time.st = .unsync → t.tick.index = s.time.now / periodNs s) ∧
      Unchanged (if s.time.st = .sync then [.time, .link, .out, .draws] else if s.time.st = .unsync then
        [.time, .tick, .str, .link, .host, .err, .out, .draws] else [.time, .link, .host, .err, .out, .draws]) s t) ∧
  (∀ (s : State) (p : Nat) (u : RawUnit) (x : Sample), MsgMay s p u 0x52 → sendWorks s = [] → s.time.request = some (bodyAt (headOf u) 56 4) →
    x = sampleOf (bodyAt (headOf u) 24 8) (bodyAt (headOf u) 32 8) (bodyAt (headOf u) 40 8) s.time.now (bodyAt (headOf u) 48 4) (bodyAt (headOf u) 52 4) →
    slowSample s x = false → bodyAt (headOf u) 62 1 ≠ 0 → planBinds s = false → x.offset < -32000 ∨ 32000 < x.offset →
    Runs (.syncResp p u) s fun t =>
      (∃ n, (n = x.offset / 32 ∨ x.offset % 32 ≠ 0 ∧ n = x.offset / 32 + 1) ∧ t.time.now = ((s.time.now : Int) + n).toNat) ∧
      t.time.steps = satAdd s.time.steps 1 ∧ t.time.st = (if s.time.st = .holdover then .sync else s.time.st) ∧
      Unchanged [.time, .tick, .str, .link, .host, .err, .out, .draws] s t) ∧
  (∀ (s : State) (p : Nat) (u : RawUnit) (x : Sample), MsgMay s p u 0x52 → s.time.request = some (bodyAt (headOf u) 56 4) →
    x = sampleOf (bodyAt (headOf u) 24 8) (bodyAt (headOf u) 32 8) (bodyAt (headOf u) 40 8) s.time.now (bodyAt (headOf u) 48 4) (bodyAt (headOf u) 52 4) →
    slowSample s x = false → bodyAt (headOf u) 62 1 ≠ 0 → planBinds s = true → x.offset < -32000 ∨ 32000 < x.offset →
    Runs (.syncResp p u) s fun t => t.core.halted = true) ∧
  (∀ (s : State) (p : Nat) (u : RawUnit) (x : Sample), MsgMay s p u 0x52 → sendWorks s = [] → s.time.request = some (bodyAt (headOf u) 56 4) →
    x = sampleOf (bodyAt (headOf u) 24 8) (bodyAt (headOf u) 32 8) (bodyAt (headOf u) 40 8) s.time.now (bodyAt (headOf u) 48 4) (bodyAt (headOf u) 52 4) →
    slowSample s x = true ∨ bodyAt (headOf u) 62 1 = 0 → Runs (.syncResp p u) s fun t =>
      t.time = { s.time with request := none, delays := (x.delay :: s.time.delays).take 16 } ∧ Unchanged [.time, .link, .out] s t) ∧
  (∀ s : State, s.time.st = .sync → Runs .holdover s fun t =>
      t.time = { s.time with st := .holdover, holdovers := satAdd s.time.holdovers 1 } ∧ Unchanged [.time, .host, .err, .out] s t) ∧
  (∀ s : State, s.time.st = .holdover → s.core.active = none → s.admin = none → (∀ x ∈ s.ten.recs, x.2.disabling = false) →
    s.pwr.policyNext = none → s.lib.shareNext = none → s.boot.warm = none → Runs .holdoverExpiry s fun t =>
      t.time = { s.time with st := .unsync } ∧ Unchanged [.time, .tick, .str, .host, .err, .out, .lib] s t) ∧
  (∀ s : State, s.time.st = .holdover → s.core.active.isSome = true → Runs .holdoverExpiry s fun t =>
      t.core.halted = true ∧ t.time.st = .unsync ∧ t.time.now = s.time.now ∧ t.fuse = s.fuse)

/-- INTAKE_CUT and TICK_BOUNDARY (from R24, R44, R69, R107, R108, R185, R186): the cut opens the next intake at its moment; a boundary not held back gives the tick its number, at its moment of grove time, and a new value of HOLD takes effect; one skipped under debug-hold keeps the tick, drops the signals held for the tick skipped and says HELD; one that a warm reset waits for makes that reset due; one at which a sensor reads its trip point trips the chip. CHECKPOINT and LEAD_LOADS_DONE (from R128, R133, R225, R226): a finished copy becomes the graft's newest checkpoint; when the lead loads are in, each slot holds its block, every queue starts and no lead load is left; one into a held slot halts the core; one that reads beyond HBM stops. -/
def Obligations.CutsBoundariesAndLeadLoads : Prop :=
  (∀ s : State, mainOn s = true → timeRuns s = true → s.tick.intake ≤ s.time.now / periodNs s → Runs .intakeCut s fun t =>
      t.tick = { s.tick with intake := s.time.now / periodNs s + 1 } ∧ t.time.now = max s.time.now (cutNs s) ∧
      Unchanged [.time, .tick, .host, .err, .out] s t) ∧
  (∀ (s : State) (m : Meters), mainOn s = true → timeRuns s = true → resetDue s = false → warmWaits s = false → m.tj < 115 → m.thbm < 100 →
    holdReads s = false ∨ tickOpen s = false → 0 < s.tick.quarters → Runs (.tickBoundary m) s fun t =>
      t.tick.index = s.time.now / periodNs s + 1 ∧ t.time.now = (s.time.now / periodNs s + 1) * periodNs s ∧
      t.time.st = s.time.st ∧ t.knot.hold = holdReads s ∧ t.knot.holdReq = none ∧ t.knot.held = false ∧ t.fuse = s.fuse ∧
      t.stw.spi = s.stw.spi ∧ t.lib.flash = s.lib.flash) ∧
  (∀ (s : State) (m : Meters), mainOn s = true → timeRuns s = true → resetDue s = false → warmWaits s = false → m.tj < 115 → m.thbm < 100 →
    holdReads s = true → tickOpen s = true → 0 < s.tick.quarters → Runs (.tickBoundary m) s fun t =>
      t.tick.index = s.tick.index ∧ t.knot.held = true ∧ t.knot.hold = true ∧
      t.knot.heldSignals = s.knot.heldSignals.filter (fun h => decide (nextTick s < h.tick)) ∧ t.core.queues = s.core.queues ∧
      t.core.active = s.core.active ∧ t.core.halted = s.core.halted ∧ t.mem = s.mem ∧
      t.time.now = (s.time.now / periodNs s + 1) * periodNs s) ∧
  (∀ (s : State) (m : Meters), mainOn s = true → timeRuns s = true → resetDue s = false → warmWaits s = true → m.tj < 115 → m.thbm < 100 →
    Runs (.tickBoundary m) s fun t => resetDue t = true ∧ t.tick.index = s.time.now / periodNs s + 1) ∧
  (∀ (s : State) (m : Meters), mainOn s = true → timeRuns s = true → resetDue s = false → serviceUp s = true → 115 ≤ m.tj ∨ 100 ≤ m.thbm →
    s.pin.thermtrip = false → Runs (.tickBoundary m) s fun t =>
      t.pin.thermtrip = true ∧ t.boot.dom = .isolated ∧ FaultStored s t 6 ∧ MainCleared s { t with time := { t.time with logNs := s.time.logNs } }) ∧
  (∀ (s : State) (graft : Nat) (r : Ckpt) (a : Plan), runningPlan s = some a → s.tick.ckptRuns.find? (fun r => r.graft == graft) = some r →
    Runs (.checkpoint graft) s fun t =>
      t.tick = { s.tick with ckpt := r.tick, ckptRuns := s.tick.ckptRuns.filter (fun x => x.graft != graft),
                             ckptLast := tabSet graft r.copy s.tick.ckptLast } ∧ Unchanged [.tick, .host, .err, .out] s t) ∧
  (∀ (s : State) (ws : List Insn), s.core.lead ≠ [] → s.core.halted = false → s.mem.poolBad = [] → s.mem.hbmBad = [] → leadBeyond s = none →
    leadPoison s = none → ws = s.core.lead.filterMap (leadInsn s) → ws.Pairwise (fun a b => fieldOf a 25 16 ≠ fieldOf b 25 16) →
    (∀ w ∈ ws, (slotOf s (fieldOf w 25 16)).count = 0 ∧ plainClash s w = none ∧ (blockSrc w).2 ≤ 65536) → Runs .leadLoadsDone s fun t =>
      t.core.lead = [] ∧ t.core.queues = s.core.queues.map startQueue ∧ t.core.halted = false ∧
      (∀ w ∈ ws, (slotOf t (fieldOf w 25 16)).count = slotCount (pushesOf w) ∧ (slotOf t (fieldOf w 25 16)).tag = blockTag s w ∧
        ∀ i, i < (blockSrc w).2 → poolByte t (slotBase (fieldOf w 25 16) + i) = hbmByte s ((blockSrc w).1 + i)) ∧
      (∀ h, (∀ w ∈ ws, fieldOf w 25 16 ≠ h) → slotOf t h = slotOf s h ∧
        ∀ i, i < 65536 → poolByte t (slotBase h + i) = poolByte s (slotBase h + i)) ∧ t.mem.hbm = s.mem.hbm ∧
      t.core.hqs = s.core.hqs ∧ Unchanged [.core, .mem, .halt] s t) ∧
  (∀ (s : State) (w : Insn), s.core.lead ≠ [] → leadBeyond s = none → w ∈ s.core.lead.filterMap (leadInsn s) →
    (slotOf s (fieldOf w 25 16)).count ≠ 0 ∨ plainClash s w ≠ none → Runs .leadLoadsDone s fun t => t.core.halted = true) ∧
  (∀ (s : State) (a : Nat), leadBeyond s = some a → exec .leadLoadsDone s = .fault (.hbmRange a))

/-- CXL_MEM_READ, CXL_MEM_WRITE and OWNERSHIP_REQUEST in a quiet library (from R67, R269, R270, R273 to R276, R279, R282, R290; log 63): a closed window, or a dead host, gets poison and its writes are dropped; a cached line that no other host owns is given to its reader, shared, or as it owned it; one that another host owns is recalled first; a page that is not cached is read from flash first, where the cache has room; a line that no other host holds is given to its owner, one that another host holds is recalled first, and one of a published or read-only library is given shared; a write puts its 64 bytes in the cache and makes its page dirty; a write to a published page or a read-only library is completed, counted and changes no byte. -/
def Obligations.HostMemoryRequests : Prop :=
  (∀ (s : State) (ld line : Nat) (c : Instr), hostReaches s ld = true → cutOff s ld = true →
    (c = .cxlMemRead ld line ∨ c = .ownershipRequest ld line) →
    exec c s = .next (emit s (.cxlData ld line (List.replicate 64 0xFF) true false))) ∧
  (∀ (s : State) (ld line : Nat) (data : List Byte), hostReaches s ld = true → cutOff s ld = true → Runs (.cxlMemWrite ld line data) s fun t =>
      t.out.head? = some (.cxlDropped ld line) ∧ Unchanged [.host, .err, .out, .port] s t) ∧
  (∀ (s : State) (ld line : Nat) (x : CachePage), LibQuiet s → hostReaches s ld = true → cutOff s ld = false → line < libLines s →
    pageOf s (linePage line) = some x → x.filling = false →
    (dirOf s line = none ∧ (setEntries s line).length < 16 ∨ ∃ e, dirOf s line = some e ∧ e.owned = false) →
    exec (.cxlMemRead ld line) s = .next (sendLine (grantLine s ld line false) ld line true)) ∧
  (∀ (s : State) (ld line : Nat) (x : CachePage) (e : DirEntry), LibQuiet s → hostReaches s ld = true → cutOff s ld = false →
    line < libLines s → pageOf s (linePage line) = some x → x.filling = false → dirOf s line = some e → e.owned = true →
    e.holders = ldBit ld → exec (.cxlMemRead ld line) s = .next (sendLine s ld line false)) ∧
  (∀ (s : State) (ld h line : Nat) (x : CachePage) (e : DirEntry) (c : Instr) (k : LibKind), LibQuiet s → hostReaches s ld = true →
    cutOff s ld = false → line < libLines s → pageOf s (linePage line) = some x → x.filling = false → dirOf s line = some e → e.owned = true →
    h < 16 → h ≠ ld → e.holders = ldBit h → s.lib.lock = none → published s (linePage line) = false → s.lib.readOnly = false → dirtyFull s = false →
    (c = .cxlMemRead ld line ∧ k = .read ∨ c = .ownershipRequest ld line ∧ k = .own ∨ ∃ d, c = .cxlMemWrite ld line d ∧ k = .write d) →
    exec c s = .next (emit { s with lib := { s.lib with
      waiting := [{ ld := ld, line := line, kind := k }], snoops := [{ ld := h, line := line, data := k == .read }] } } (.snoop h line (k == .read)))) ∧
  (∀ (s : State) (ld line : Nat), LibQuiet s → hostReaches s ld = true → cutOff s ld = false → line < libLines s →
    pageOf s (linePage line) = none → s.lib.pages.length < cachePageMax s → Runs (.cxlMemRead ld line) s fun t =>
      t.lib = { s.lib with
        waiting := [{ ld := ld, line := line, kind := .read }]
        pages := s.lib.pages ++ [{ page := linePage line, dirty := false, writing := false, filling := true, fresh := []
                                   evicting := false, snap := [], snapPoison := [] }] } ∧ Unchanged [.lib] s t) ∧
  (∀ (s : State) (ld line : Nat) (x : CachePage), LibQuiet s → hostReaches s ld = true → cutOff s ld = false → line < libLines s →
    pageOf s (linePage line) = some x → x.filling = false → othersHold s ld line = false →
    (dirOf s line = none → (setEntries s line).length < 16) → s.lib.lock = none → published s (linePage line) = false →
    s.lib.readOnly = false → dirtyFull s = false →
    exec (.ownershipRequest ld line) s = .next (sendLine (grantLine s ld line true) ld line false)) ∧
  (∀ (s : State) (ld line : Nat) (x : CachePage), LibQuiet s → hostReaches s ld = true → cutOff s ld = false → line < libLines s →
    pageOf s (linePage line) = some x → x.filling = false → dirOf s line = none → (setEntries s line).length < 16 → s.lib.lock = none →
    published s (linePage line) = true ∨ s.lib.readOnly = true →
    exec (.ownershipRequest ld line) s = .next (sendLine (grantLine s ld line false) ld line true)) ∧
  (∀ (s : State) (ld line : Nat) (data : List Byte) (x : CachePage), LibQuiet s → hostReaches s ld = true → cutOff s ld = false →
    line < libLines s → pageOf s (linePage line) = some x → x.filling = false → othersHold s ld line = false → s.lib.lock = none →
    published s (linePage line) = false → s.lib.readOnly = false → dirtyFull s = false → Runs (.cxlMemWrite ld line data) s fun t =>
      (∀ i, i < 64 → cacheByte t (64 * line + i) = data.getD i 0) ∧
      (∀ a, a < 64 * line ∨ 64 * line + 64 ≤ a → cacheByte t a = cacheByte s a) ∧ pageOf t (linePage line) = some { x with dirty := true } ∧
      t.lib.flash = s.lib.flash ∧ t.lib.dir = s.lib.dir ∧ t.out = .cxlDone ld line :: s.out ∧ Unchanged [.lib, .out] s t) ∧
  (∀ (s : State) (ld line : Nat) (data : List Byte), LibQuiet s → hostReaches s ld = true → cutOff s ld = false → line < libLines s →
    s.lib.lock = none → published s (linePage line) = true ∨ s.lib.readOnly = true → Runs (.cxlMemWrite ld line data) s fun t =>
      t.lib = { s.lib with
        writesRefused := satAdd s.lib.writesRefused 1
        refused := tallyRefused ld (if published s (linePage line) then 1 else 2) (linePage line) s.lib.refused } ∧
      t.out = .cxlDone ld line :: s.out ∧ Unchanged [.lib, .out] s t)

/-- BISNP_RESPONSE and BI_TIMEOUT (from R275, R278, R279): a recall for ownership answered leaves the host without the line, one for data leaves the line shared, and the data of a host that owned the line goes into the cache; a host that does not answer is dead, holds nothing and is counted. -/
def Obligations.RecallsAndHostDeath : Prop :=
  (∀ (s : State) (ld line : Nat) (x : Snoop) (data : Option (List Byte)), LibStill s →
    s.lib.snoops.find? (fun x => x.ld == ld && x.line == line) = some x → Runs (.bisnpResponse ld line data) s fun t =>
      t.lib.snoops = s.lib.snoops.filter (fun y => !(y.ld == ld && y.line == line)) ∧
      (x.data = false → ∀ e, dirOf t line = some e → e.holders &&& ldBit ld = 0) ∧
      (x.data = true → ∀ e, dirOf s line = some e → e.holders ≠ 0 → dirOf t line = some { e with owned := false }) ∧
      (∀ l, l ≠ line → dirOf t l = dirOf s l) ∧ t.lib.flash = s.lib.flash ∧
      (ownsLine s ld line = false ∨ data = none → t.lib.cache = s.lib.cache) ∧
      (∀ bs, ownsLine s ld line = true → data = some bs → (∀ i, i < 64 → cacheByte t (64 * line + i) = bs.getD i 0) ∧
        ∀ a, a < 64 * line ∨ 64 * line + 64 ≤ a → cacheByte t a = cacheByte s a) ∧ Unchanged [.lib] s t) ∧
  (∀ (s : State) (ld line : Nat), LibStill s → ld < 16 → snoopOut s ld line = true → Runs (.biTimeout ld line) s fun t =>
      t.host.dead = s.host.dead ||| ldBit ld ∧ t.lib.hostDeaths = satAdd s.lib.hostDeaths 1 ∧
      (∀ x ∈ t.lib.snoops, x.ld ≠ ld) ∧ (∀ e ∈ t.lib.dir, e.holders &&& ldBit ld = 0) ∧ t.lib.cache = s.lib.cache ∧
      t.lib.flash = s.lib.flash ∧ Unchanged [.lib, .host, .err, .out, .port] s t)

/-- CACHE_FILL, DIRTY_PAGE_WRITEBACK and WRITE_BACK_COMPLETE (from R270, R272, R285, R289 to R291): a fill leaves the flash bytes of its page in the cache, but for the lines that hosts have returned meanwhile, and counts the read and a correction; one that flash cannot correct poisons every other line of the page; a page that a running record reads is taken into the cache; a write-back sends the page as it stands; a page programmed reads in flash what was sent and is counted; one that fails to program is dirty again and its block is retired. -/
def Obligations.PagesBetweenCacheAndFlash : Prop :=
  (∀ (s : State) (p : Nat) (x : CachePage) (r : EccResult), LibQuiet s → memWf 0 s.lib.cache = true → pageOf s p = some x → x.filling = true →
    r ≠ .uncorrectable → Runs (.cacheFill p r) s fun t =>
      (∀ i, i < 4096 → cacheByte t (4096 * p + i) =
        if x.fresh.contains ((4096 * p + i) / 64) then cacheByte s (4096 * p + i) else flashByte s (4096 * p + i)) ∧
      (∀ a, a < 4096 * p ∨ 4096 * p + 4096 ≤ a → cacheByte t a = cacheByte s a) ∧
      pageOf t p = some { x with filling := false, fresh := [] } ∧ t.lib.flash = s.lib.flash ∧
      t.lib.flashRd = wrapAdd64 s.lib.flashRd 4096 ∧
      t.err = { s.err with flashCe := if r = .corrected then satAdd s.err.flashCe 1 else s.err.flashCe } ∧ Unchanged [.lib, .err, .ras] s t) ∧
  (∀ (s : State) (p : Nat) (x : CachePage), LibQuiet s → pageOf s p = some x → x.filling = true → Runs (.cacheFill p .uncorrectable) s fun t =>
      (∀ l, 64 * p ≤ l → l < 64 * p + 64 → l ∉ x.fresh → l ∈ t.lib.cachePoison) ∧ p ∈ t.lib.badPages ∧
      t.err.flashUe = satAdd s.err.flashUe 1 ∧ t.lib.flash = s.lib.flash ∧ Unchanged [.lib, .host, .err, .out, .ras] s t) ∧
  (∀ (s : State) (p : Nat), LibQuiet s → pageOf s p = none → recordReads s p true = true → s.lib.pages.length < cachePageMax s →
    Runs (.cacheFill p .clean) s fun t =>
      (∀ i, i < 4096 → cacheByte t (4096 * p + i) = flashByte s (4096 * p + i)) ∧
      t.lib.pages = s.lib.pages ++ [{ page := p, dirty := false, writing := false, filling := false, fresh := [], evicting := false
                                      snap := [], snapPoison := [] }] ∧ t.lib.flash = s.lib.flash ∧ Unchanged [.lib] s t) ∧
  (∀ (s : State) (p : Nat) (x : CachePage), pageOf s p = some x → x.dirty = true → x.writing = false → x.filling = false →
    Runs (.dirtyPageWriteback p) s fun t =>
      t.out = .flashProgram p :: s.out ∧ t.lib.cache = s.lib.cache ∧ t.lib.flash = s.lib.flash ∧
      pageOf t p = some { x with dirty := false, writing := true, snap := memBytes 0 s.lib.cache (4096 * p) 4096
                                 snapPoison := inPage p s.lib.cachePoison } ∧ Unchanged [.lib, .out] s t) ∧
  (∀ (s : State) (p life : Nat) (spare : Bool) (x : CachePage), LibStill s → pageOf s p = some x → x.writing = true →
    Runs (.writeBackComplete p true life spare) s fun t =>
      (∀ i b, x.snap[i]? = some b → flashByte t (4096 * p + i) = b) ∧
      (∀ a, a < 4096 * p ∨ 4096 * p + x.snap.length ≤ a → flashByte t a = flashByte s a) ∧ t.lib.cache = s.lib.cache ∧
      pageOf t p = some { x with writing := false, snap := [], snapPoison := [] } ∧
      t.lib.flashWr = wrapAdd64 s.lib.flashWr 4096 ∧ t.lib.life = min s.lib.life life ∧
      t.lib.readOnly = (s.lib.readOnly || min s.lib.life life == 0 || !spare) ∧ Unchanged [.lib, .host, .err, .out] s t) ∧
  (∀ (s : State) (p life : Nat) (spare : Bool) (x : CachePage), LibStill s → pageOf s p = some x → x.writing = true →
    Runs (.writeBackComplete p false life spare) s fun t =>
      t.lib.flash = s.lib.flash ∧ t.lib.cache = s.lib.cache ∧ t.lib.badBlocks = satAdd s.lib.badBlocks 1 ∧
      t.lib.life = min s.lib.life life ∧ t.lib.readOnly = (s.lib.readOnly || min s.lib.life life == 0 || !spare) ∧
      pageOf t p = some { x with writing := false, dirty := true, snap := [], snapPoison := [] } ∧
      Unchanged [.lib, .host, .err, .out] s t)

/-- LIB_PUBLISH (from R280, R281): a refused publish changes no catalogue entry; an accepted range is locked, its lines recalled from every host that holds one; where no host holds a line and no page is dirty, a range that passes its checks joins the catalogue unlocked, and one that fails them leaves the catalogue as it was. -/
def Obligations.PublishAnImage : Prop :=
  (∀ (s : State) (d : Desc), AdminMay s d 0x40 → publishRefusal s (aArg0 d) (aArg1 d) ≠ 0 →
    exec (.libPublish d) s = .next (adminDone (adminTaken s) d (publishRefusal s (aArg0 d) (aArg1 d)) 0)) ∧
  (∀ (s : State) (d : Desc), AdminMay s d 0x40 → LibQuiet s → publishRefusal s (aArg0 d) (aArg1 d) = 0 →
    (∃ e ∈ s.lib.dir, inRange (aArg0 d) (aArg1 d) (linePage e.line) = true) → Runs (.libPublish d) s fun t =>
      t.lib.lock = some (aArg0 d, aArg1 d) ∧ t.lib.catalog = s.lib.catalog ∧
      (∃ l, t.admin = some { d := d, work := .publish (aArg0 d) (aArg1 d) l false }) ∧
      (∀ e ∈ s.lib.dir, inRange (aArg0 d) (aArg1 d) (linePage e.line) = true → ∀ h ∈ hostsOf e.holders, snoopOut t h e.line = true) ∧
      t.lib.flash = s.lib.flash ∧ t.lib.cache = s.lib.cache ∧ Unchanged [.lib, .host, .out, .admin] s t) ∧
  (∀ (s : State) (d : Desc), AdminMay s d 0x40 → LibQuiet s → publishRefusal s (aArg0 d) (aArg1 d) = 0 →
    (∀ e ∈ s.lib.dir, inRange (aArg0 d) (aArg1 d) (linePage e.line) = false) →
    (∀ x ∈ s.lib.pages, inRange (aArg0 d) (aArg1 d) x.page = true → x.dirty = false ∧ x.writing = false) →
    imgCheck (imageMeta s (aArg0 d) (aArg1 d)) (4096 * aArg1 d) (otherImages s (aArg0 d)) = 0 → Runs (.libPublish d) s fun t =>
      (∃ e, t.lib.catalog = s.lib.catalog ++ [e] ∧ e.first = aArg0 d ∧ e.pages = aArg1 d ∧
        e.imageId = imgImageId (imageMeta s (aArg0 d) (aArg1 d)) ∧ e.modelId = imgModelId (imageMeta s (aArg0 d) (aArg1 d)) ∧
        e.keyId = imgKeyId (imageMeta s (aArg0 d) (aArg1 d)) ∧ e.nonceBase = imgNonce (imageMeta s (aArg0 d) (aArg1 d))) ∧
      t.lib.lock = none ∧ t.lib.flash = s.lib.flash ∧
      t.lib.cache = s.lib.cache ∧ Unchanged [.lib, .host, .err, .out, .admin] s t) ∧
  (∀ (s : State) (d : Desc), AdminMay s d 0x40 → LibQuiet s → publishRefusal s (aArg0 d) (aArg1 d) = 0 →
    (∀ e ∈ s.lib.dir, inRange (aArg0 d) (aArg1 d) (linePage e.line) = false) →
    imgCheck (imageMeta s (aArg0 d) (aArg1 d)) (4096 * aArg1 d) (otherImages s (aArg0 d)) ≠ 0 → Runs (.libPublish d) s fun t =>
      t.lib.catalog = s.lib.catalog ∧ t.lib.lock = none ∧ t.lib.flash = s.lib.flash ∧ t.lib.cache = s.lib.cache ∧
      Unchanged [.lib, .host, .err, .out, .admin] s t)

/-- LIB_RETIRE (R283): after LIB_CLOSED, a range that is no catalogue entry is not published, and one that a prefetch record names is in use; otherwise the entry goes, for good, its pages are published no more, and no byte of flash or cache changes. -/
def Obligations.RetireAnImage : Prop :=
  (∀ (s : State) (d : Desc), AdminMay s d 0x41 → s.lib.isOpen = false → exec (.libRetire d) s = .next (adminDone (adminTaken s) d 0xC0 0)) ∧
  (∀ (s : State) (d : Desc), AdminMay s d 0x41 → s.lib.isOpen = true → (¬ ∃ e ∈ s.lib.catalog, e.first = aArg0 d ∧ e.pages = aArg1 d) →
    exec (.libRetire d) s = .next (adminDone (adminTaken s) d 0xC6 0)) ∧
  (∀ (s : State) (d : Desc), AdminMay s d 0x41 → s.lib.isOpen = true → (∃ e ∈ s.lib.catalog, e.first = aArg0 d ∧ e.pages = aArg1 d) →
    (∃ r ∈ s.lib.recs, r.first = aArg0 d) → exec (.libRetire d) s = .next (adminDone (adminTaken s) d 0xC7 0)) ∧
  (∀ (s : State) (d : Desc), AdminMay s d 0x41 → s.lib.isOpen = true → (∃ e ∈ s.lib.catalog, e.first = aArg0 d ∧ e.pages = aArg1 d) →
    (¬ ∃ r ∈ s.lib.recs, r.first = aArg0 d) → Runs (.libRetire d) s fun t =>
      t.lib = { s.lib with catalog := s.lib.catalog.filter (fun e => !(e.first == aArg0 d && e.pages == aArg1 d)) } ∧
      ((∀ e ∈ s.lib.catalog, e.first = aArg0 d ∧ e.pages = aArg1 d ∨ rangesMeet (aArg0 d) (aArg1 d) e.first e.pages = false) →
        ∀ p, aArg0 d ≤ p → p < aArg0 d + aArg1 d → published t p = false) ∧
      (∀ lost, Runs (.coldReset lost) t fun u => u.lib.catalog = t.lib.catalog) ∧ Unchanged [.lib, .host, .err, .out, .admin] s t)

/-- LIB_PREFETCH_STAGE, LIB_PREFETCH_CANCEL, PREFETCH_END and CANCEL_COMPLETE (from R210, R284 to R286; log 62): staging of a published image adds one running record, and is refused while the library is closed, for a page that is not published, with no record free, for a range that is not free and for a wrong key; a cancel waits for its record's end; a record whose reading and checks pass has its shards and state staged, one whose checks fail leaves its ranges zero, and one for which the cache has no page goes on; a cancel that completes frees the record and zeroes the bytes that it has written, as many as those are, and no other byte. -/
def Obligations.PrefetchRecords : Prop :=
  (∀ (s : State) (d : Desc) (e : CatalogEntry) (id : Nat), AdminMay s d 0x42 → bitsOf (aArg0 d) 31 30 = 0 → s.lib.isOpen = true →
    s.lib.catalog.find? (fun e => e.first == bitsOf (aArg0 d) 29 0) = some e → (s.lib.recs.filter (·.running)).length < 8 →
    freeRecord s = some id → recordPlaced s (recordFor s d e id) = true →
    bitAt (aArg0 d) 33 = false ∨ (keyOf s (bitsOf (aArg2 d) 55 48)).map (·.keyId) = some e.keyId → Runs (.libPrefetchStage d) s fun t =>
      t.lib = { s.lib with recs := s.lib.recs ++ [recordFor s d e id] } ∧ Unchanged [.lib, .host, .err, .out, .admin] s t) ∧
  (∀ (s : State) (d : Desc), AdminMay s d 0x42 → bitsOf (aArg0 d) 31 30 = 0 → s.lib.isOpen = false →
    exec (.libPrefetchStage d) s = .next (adminDone (adminTaken s) d 0xC0 0)) ∧
  (∀ (s : State) (d : Desc), AdminMay s d 0x42 → bitsOf (aArg0 d) 31 30 = 0 → s.lib.isOpen = true →
    s.lib.catalog.find? (fun e => e.first == bitsOf (aArg0 d) 29 0) = none →
    exec (.libPrefetchStage d) s = .next (adminDone (adminTaken s) d 0xC6 0)) ∧
  (∀ (s : State) (d : Desc) (e : CatalogEntry), AdminMay s d 0x42 → bitsOf (aArg0 d) 31 30 = 0 → s.lib.isOpen = true →
    s.lib.catalog.find? (fun e => e.first == bitsOf (aArg0 d) 29 0) = some e →
    8 ≤ (s.lib.recs.filter (·.running)).length ∨ freeRecord s = none →
    exec (.libPrefetchStage d) s = .next (adminDone (adminTaken s) d 0xC8 0)) ∧
  (∀ (s : State) (d : Desc) (e : CatalogEntry) (id : Nat), AdminMay s d 0x42 → bitsOf (aArg0 d) 31 30 = 0 → s.lib.isOpen = true →
    s.lib.catalog.find? (fun e => e.first == bitsOf (aArg0 d) 29 0) = some e → (s.lib.recs.filter (·.running)).length < 8 →
    freeRecord s = some id → recordPlaced s (recordFor s d e id) = false ∨
      bitAt (aArg0 d) 33 = true ∧ (keyOf s (bitsOf (aArg2 d) 55 48)).map (·.keyId) ≠ some e.keyId →
    exec (.libPrefetchStage d) s = .next (adminDone (adminTaken s) d (if recordPlaced s (recordFor s d e id) then 0xCA else 0xC9) 0)) ∧
  (∀ (s : State) (d : Desc) (r : PrefetchRec), AdminMay s d 0x42 → bitsOf (aArg0 d) 31 30 = 1 → recordOf s (aArg1 d) = some r →
    r.running = true → Runs (.libPrefetchCancel d) s fun t =>
      t.admin = some { d := d, work := .cancel r.id } ∧ t.lib = { s.lib with recs := s.lib.recs.map (fun x => if x.id = r.id then askCancel s x else x) } ∧
      Unchanged [.lib, .host, .admin] s t) ∧
  (∀ (s : State) (d : Desc), AdminMay s d 0x42 → bitsOf (aArg0 d) 31 30 = 1 → (∀ r, recordOf s (aArg1 d) = some r → r.running = false) →
    exec (.libPrefetchCancel d) s = .next (adminDone (adminTaken s) d 0xCB 0)) ∧
  (∀ (s a : State) (id : Nat) (r : PrefetchRec), recordOf s id = some r → r.running = true → r.cancelling = false → s.lib.isOpen = true →
    (recPages s r).foldl recReadPage (true, s) = (true, a) → (stageEnd s r).1 = 0 → Runs (.prefetchEnd id) s fun t =>
      t.mem = (stageWrite a r (stageEnd s r).2.2).mem ∧ recordOf t id = some { r with running := false, cancelAsked := false } ∧
      t.lib.flash = s.lib.flash ∧ t.lib.catalog = s.lib.catalog ∧ Unchanged [.lib, .mem, .host, .err, .out, .admin, .draws] s t) ∧
  (∀ (s a : State) (id : Nat) (r : PrefetchRec), recordOf s id = some r → r.running = true → r.cancelling = false → s.lib.isOpen = true →
    (recPages s r).foldl recReadPage (true, s) = (true, a) → (stageEnd s r).1 ≠ 0 → Runs (.prefetchEnd id) s fun t =>
      (∀ x ∈ recRanges r, ∀ i, i < x.2 → hbmByte t (x.1 + i) = 0) ∧
      (∀ b, (∀ x ∈ recRanges r, b < x.1 ∨ x.1 + x.2 ≤ b) → hbmByte t b = hbmByte s b) ∧
      recordOf t id = some { r with running := false, cancelAsked := false } ∧
      t.mem.pool = s.mem.pool ∧ t.lib.flash = s.lib.flash ∧ t.lib.catalog = s.lib.catalog ∧
      Unchanged [.lib, .mem, .host, .err, .out, .admin, .draws] s t) ∧
  (∀ (s a : State) (id : Nat) (r : PrefetchRec), recordOf s id = some r → r.running = true → r.cancelling = false → s.lib.isOpen = true →
    (recPages s r).foldl recReadPage (true, s) = (false, a) → exec (.prefetchEnd id) s = .next a) ∧
  (∀ (s : State) (id : Nat) (r : PrefetchRec), recordOf s id = some r → r.running = true → r.cancelling = true →
    Runs (.cancelComplete id) s fun t =>
      (∃ n, t.mem = (zeroWritten s n (recWrites s r)).mem) ∧ (∀ a, hbmByte t a = hbmByte s a ∨ hbmByte t a = 0) ∧
      (∀ a, (∀ x ∈ recWrites s r, a < x.1 ∨ x.1 + x.2 ≤ a) → hbmByte t a = hbmByte s a) ∧ recordOf t id = none ∧
      t.mem.pool = s.mem.pool ∧ Unchanged [.lib, .mem, .host, .err, .out, .admin, .draws] s t)

/-- LIB_PREFETCH_UNSTAGE (R287): the ranges of an ended record are zeroed and the record is freed; a running record, and one whose INIT range holds an INIT_ADDR of the active or armed plan, is in use; a record that is not held is not there. -/
def Obligations.UnstageOfPrefetchRecords : Prop :=
  (∀ (s : State) (d : Desc) (r : PrefetchRec), AdminMay s d 0x42 → bitsOf (aArg0 d) 31 30 = 2 → recordOf s (aArg1 d) = some r →
    r.running = false → ¬ InitNamed s r → Runs (.libPrefetchUnstage d) s fun t =>
      (∀ x ∈ recRanges r, ∀ i, i < x.2 → hbmByte t (x.1 + i) = 0) ∧
      (∀ a, (∀ x ∈ recRanges r, a < x.1 ∨ x.1 + x.2 ≤ a) → hbmByte t a = hbmByte s a) ∧
      recordOf t (aArg1 d) = none ∧ t.lib = { s.lib with recs := s.lib.recs.filter (fun x => x.id != r.id) } ∧
      t.mem.pool = s.mem.pool ∧ Unchanged [.lib, .mem, .host, .err, .out, .admin] s t) ∧
  (∀ (s : State) (d : Desc) (r : PrefetchRec), AdminMay s d 0x42 → bitsOf (aArg0 d) 31 30 = 2 → recordOf s (aArg1 d) = some r →
    r.running = true ∨ InitNamed s r → exec (.libPrefetchUnstage d) s = .next (adminDone (adminTaken s) d 0xC7 0)) ∧
  (∀ (s : State) (d : Desc), AdminMay s d 0x42 → bitsOf (aArg0 d) 31 30 = 2 → recordOf s (aArg1 d) = none →
    exec (.libPrefetchUnstage d) s = .next (adminDone (adminTaken s) d 0xCB 0))

/-- FW_BLOCK, FW_ACTIVATE_NOW, FW_ACTIVATE_AT_RESET and FW_DISCARD (from R316, R317, R319, R322): a block refused by the engine, out of its place, or beyond the image changes nothing of the steward; a first block whose header fails a check ends with that code, and one that passes begins a transfer; a block that goes on stands in the target slot and moves the next OFFSET past it, nothing but the units it erases ahead being touched; the last one stages the image or finds a wrong digest; an activation refused changes nothing, and one accepted writes a boot record with PENDING the target slot, at once with a warm reset asked for; a discard gives up a transfer and clears PENDING. -/
def Obligations.FirmwareByAdminRing : Prop :=
  (∀ (s : State) (d : Desc) (r : DmaRead) (ok : Bool), AdminMay s d 0x60 → fwRefusal s false ≠ 0 →
    exec (.fwBlock d r ok) s = .next (adminDone (adminTaken s) d (fwRefusal s false) 0)) ∧
  (∀ (s : State) (d : Desc) (r : DmaRead) (ok : Bool), AdminMay s d 0x60 → fwRefusal s false = 0 → offsetBad s d = true →
    exec (.fwBlock d r ok) s = .next (adminDone (adminTaken s) d 0xC1 0)) ∧
  (∀ (s : State) (d : Desc) (b : List Byte) (ok : Bool), BufferMay s d 0x60 → fwRefusal s false = 0 → fbOffset d = 0 → b.length = aLen d →
    fwImageLen (b.take 4096) < aLen d → exec (.fwBlock d (.ok b) ok) s = .next (adminDone (adminRead s d) d 0xC1 0)) ∧
  (∀ (s : State) (d : Desc) (b : List Byte) (ok : Bool), BufferMay s d 0x60 → fwRefusal s false = 0 → fbOffset d = 0 → b.length = aLen d →
    aLen d ≤ fwImageLen (b.take 4096) → s.stw.fw ≠ .receiving → fwCheckHeader s (b.take 4096) true ≠ 0 →
    Runs (.fwBlock d (.ok b) ok) s fun t =>
      t.stw.fw = s.stw.fw ∧ t.stw.nextOffset = 0 ∧ t.stw.lastCheck = fwCheckHeader s (b.take 4096) true ∧
      (∃ u : State, u.stw = t.stw ∧ t = adminDone u d 0xC0 (fwCheckHeader s (b.take 4096) true)) ∧
      (∀ a, a < recLogBase → spiByte t a = spiByte s a) ∧ Unchanged [.stw, .host, .err, .out, .admin] s t) ∧
  (∀ (s : State) (d : Desc) (b : List Byte), BufferMay s d 0x60 → fwRefusal s false = 0 → fbOffset d = 0 → b.length = aLen d →
    4096 ≤ aLen d → aLen d < fwImageLen (b.take 4096) → s.stw.fw ≠ .receiving → fwCheckHeader s (b.take 4096) true = 0 →
    provisioning s = false → Runs (.fwBlock d (.ok b) true) s fun t =>
      t.stw.fw = .receiving ∧ t.stw.prev = s.stw.fw ∧ t.stw.pathService = false ∧ t.stw.nextOffset = aLen d ∧
      t.stw.header = b.take 4096 ∧ t.stw.target = newTarget s ∧
      (∀ i x, b[i]? = some x → 4096 ≤ i → spiByte t (fwSlotBase (newTarget s) + i) = x) ∧
      (∃ u : State, u.stw = t.stw ∧ t = adminDone u d 0 0) ∧ Unchanged [.stw, .host, .err, .out, .admin] s t) ∧
  (∀ (s : State) (d : Desc) (b : List Byte), BufferMay s d 0x60 → fwRefusal s false = 0 → offsetBad s d = false → 4096 ≤ fbOffset d →
    b.length = aLen d → fbOffset d + aLen d < fwImageLen s.stw.header → provisioning s = false → Runs (.fwBlock d (.ok b) true) s fun t =>
      t.stw.fw = .receiving ∧ t.stw.nextOffset = fbOffset d + aLen d ∧ t.stw.header = s.stw.header ∧ t.stw.target = s.stw.target ∧
      (∀ i x, b[i]? = some x → spiByte t (fwSlotBase s.stw.target + fbOffset d + i) = x) ∧
      (∀ a, a < fwSlotBase s.stw.target + fbOffset d ∨ fwSlotBase s.stw.target + 65536 * ceilDiv (fbOffset d + aLen d) 65536 ≤ a →
        spiByte t a = spiByte s a) ∧
      (∃ u : State, u.stw = t.stw ∧ t = adminDone u d 0 0) ∧ Unchanged [.stw, .host, .err, .out, .admin] s t) ∧
  (∀ (s : State) (d : Desc) (b : List Byte), BufferMay s d 0x60 → fwRefusal s false = 0 → offsetBad s d = false → 4096 ≤ fbOffset d →
    b.length = aLen d → fbOffset d + aLen d = fwImageLen s.stw.header → provisioning s = false → Runs (.fwBlock d (.ok b) true) s fun t =>
      t.stw.nextOffset = 0 ∧ t.stw.header = [] ∧
      (t.stw.fw = .staged ∧ (∃ u : State, u.stw = t.stw ∧ t = adminDone u d 0 0) ∨
        t.stw.fw = s.stw.prev ∧ t.stw.lastCheck = 7 ∧ (∃ u : State, u.stw = t.stw ∧ t = adminDone u d 0xC0 7)) ∧
      Unchanged [.stw, .host, .err, .out, .admin] s t) ∧
  (∀ (s : State) (d : Desc) (b : List Byte), BufferMay s d 0x60 → fwRefusal s false = 0 → offsetBad s d = false → 4096 ≤ fbOffset d →
    provisioning s = false → Runs (.fwBlock d (.ok b) false) s fun t =>
      t.stw.fw = s.stw.prev ∧ t.stw.nextOffset = 0 ∧ (∃ u : State, u.stw = t.stw ∧ t = adminDone u d 0xC6 0) ∧
      Unchanged [.stw, .host, .err, .out, .admin] s t) ∧
  (∀ (s : State) (d : Desc) (c : Instr), AdminMay s d 0x61 → aArg0 d = 0 ∧ c = .fwActivateNow d ∨ aArg0 d = 1 ∧ c = .fwActivateAtReset d →
    activateStatus s ≠ 0 → exec c s = .next (adminDone (adminTaken s) d (activateStatus s) 0)) ∧
  (∀ (s : State) (d : Desc), AdminMay s d 0x61 → aArg0 d = 1 → activateStatus s = 0 → Runs (.fwActivateAtReset d) s fun t =>
      t.stw.fw = .pending ∧ [spiByte t (recBase (recNext s) + 9)] = leBytes 1 (targetSlot s) ∧
      (∀ a, a < recLogBase → a < recBase (recNext s) ∨ recBase (recNext s) + 4096 ≤ a → spiByte t a = spiByte s a) ∧
      (∃ u : State, u.stw = t.stw ∧ t = adminDone u d 0 0) ∧ Unchanged [.stw, .host, .err, .out, .admin] s t) ∧
  (∀ (s : State) (d : Desc), AdminMay s d 0x61 → aArg0 d = 0 → activateStatus s = 0 → s.boot.warm = none → Runs (.fwActivateNow d) s fun t =>
      t.stw.fw = .pending ∧ [spiByte t (recBase (recNext s) + 9)] = leBytes 1 (targetSlot s) ∧
      (∀ a, a < recLogBase → a < recBase (recNext s) ∨ recBase (recNext s) + 4096 ≤ a → spiByte t a = spiByte s a) ∧
      t.boot = { s.boot with warm := some { source := .activate, due := !timeRuns s, flush := true } } ∧
      Unchanged [.boot, .stw, .lib, .host, .err, .out, .admin, .draws] s t) ∧
  (∀ (s : State) (d : Desc), AdminMay s d 0x61 → aArg0 d = 2 → (bootRec s).pending = 0xFF → memWf 0xFF s.stw.spi = true →
    Runs (.fwDiscard d) s fun t =>
      t.stw.pldm = .idle ∧ t.stw.fw = (if s.stw.fw = .receiving then s.stw.prev else s.stw.fw) ∧
      (s.stw.fw = .receiving → t.stw.nextOffset = 0 ∧ t.stw.header = []) ∧ (s.stw.fw ≠ .receiving → t.stw.spi = s.stw.spi) ∧
      (∀ a, a < recLogBase → spiByte t a = spiByte s a) ∧ (∃ u : State, u.stw = t.stw ∧ t = adminDone u d 0 0) ∧
      Unchanged [.stw, .host, .err, .out, .admin] s t) ∧
  (∀ (s : State) (d : Desc), AdminMay s d 0x61 → aArg0 d = 2 → (bootRec s).pending ≠ 0xFF → s.stw.fw ≠ .receiving →
    Runs (.fwDiscard d) s fun t =>
      t.stw.pldm = .idle ∧ spiByte t (recBase (recNext s) + 9) = 0xFF ∧
      (∀ a, a < recBase (recNext s) ∨ recBase (recNext s) + 4096 ≤ a → spiByte t a = spiByte s a) ∧
      (∃ u : State, u.stw = t.stw ∧ t = adminDone u d 0 0) ∧ Unchanged [.stw, .host, .err, .out, .admin] s t)

/-- The field update of the service port (from R316, R318, R320, R322): each PLDM command, answered by the firmware and by recovery mode, moves the update state as the steps of an update go, and one out of its place changes nothing but its answer; header bytes are collected and checked, image bytes stand in the target slot, and the last ones stage the image or find a wrong digest; an activation writes a boot record with PENDING the target slot; a transfer that is given up ends, as does one of 120 s without data. -/
def Obligations.FirmwareByServicePort : Prop :=
  (∀ s : State, PldmServed s → exec .queryDeviceIdentifiers s = .next (pldmAnswer s 0 (leBytes 8 s.fuse.serial))) ∧
  (∀ s : State, PldmServed s → exec .getFirmwareParameters s = .next (pldmAnswer s 0 (fwParameters s))) ∧
  (∀ s : State, PldmServed s → exec .getStatus s = .next (pldmAnswer s 0 (leBytes 1 s.stw.pldm.code))) ∧
  (∀ s : State, PldmServed s → s.stw.pldm = .idle → fwBusy s true = false → fwRefusal s true = 0 →
    exec .requestUpdate s = .next (pldmAnswer { s with stw := { s.stw with pldm := .learning } } 0 [])) ∧
  (∀ s : State, PldmServed s → s.stw.pldm ≠ .idle ∨ fwBusy s true = true → exec .requestUpdate s = .next (pldmAnswer s 0x81 [])) ∧
  (∀ s : State, PldmServed s → s.stw.pldm = .idle → fwBusy s true = false → fwRefusal s true ≠ 0 →
    exec .requestUpdate s = .next (pldmAnswer s 0x8A [])) ∧
  (∀ s : State, PldmServed s → s.stw.pldm = .learning → exec (.passComponentTable firmwareComponent) s =
    .next (pldmAnswer { s with stw := { s.stw with pldm := .ready } } 0 [0, 0])) ∧
  (∀ (s : State) (c : FwComponent), PldmServed s → s.stw.pldm = .learning → c ≠ firmwareComponent →
    exec (.passComponentTable c) s = .next (pldmAnswer s 0 [1, 6])) ∧
  (∀ s : State, PldmServed s → s.stw.pldm = .ready → fwRefusal s true = 0 → Runs (.updateComponent firmwareComponent) s fun t =>
      t.stw = { s.stw with pldm := .download, header := [], nextOffset := 0, target := newTarget s } ∧
      t.out = .service 9 0 (leBytes 4 0 ++ leBytes 4 1024) :: .service 2 0 [0, 0] :: s.out ∧ Unchanged [.stw, .out] s t) ∧
  (∀ (s : State) (c : FwComponent), PldmServed s → s.stw.pldm = .ready → c ≠ firmwareComponent →
    exec (.updateComponent c) s = .next (pldmAnswer s 0 [1, 6])) ∧
  (∀ s : State, PldmServed s → s.stw.pldm = .ready → fwRefusal s true ≠ 0 →
    exec (.updateComponent firmwareComponent) s = .next (pldmAnswer s 0 [1, 5])) ∧
  (∀ (s : State) (b : List Byte) (ok : Bool), PldmServed s → s.stw.pldm = .download → s.stw.header.length = s.stw.nextOffset →
    s.stw.nextOffset < 3072 → Runs (.requestFirmwareData b ok) s fun t =>
      t.stw = { s.stw with header := s.stw.header ++ padTo 1024 b, nextOffset := s.stw.nextOffset + 1024 } ∧
      t.out.head? = some (.service 9 0 (leBytes 4 (s.stw.nextOffset + 1024) ++ leBytes 4 1024)) ∧ Unchanged [.stw, .out] s t) ∧
  (∀ (s : State) (b h : List Byte) (ok : Bool), PldmServed s → s.stw.pldm = .download → s.stw.header.length = 3072 → s.stw.nextOffset = 3072 →
    h = s.stw.header ++ padTo 1024 b → s.stw.fw ≠ .receiving → fwRefusal s true = 0 → fwCheckHeader s h true ≠ 0 →
    Runs (.requestFirmwareData b ok) s fun t =>
      t.stw.pldm = .ready ∧ t.stw.fw = s.stw.fw ∧ t.stw.lastCheck = fwCheckHeader s h true ∧
      t.out.head? = some (.service 3 (0x70 + fwCheckHeader s h true) []) ∧ (∀ a, a < recLogBase → spiByte t a = spiByte s a) ∧
      Unchanged [.stw, .host, .err, .out] s t) ∧
  (∀ (s : State) (b h : List Byte), PldmServed s → s.stw.pldm = .download → s.stw.header.length = 3072 → s.stw.nextOffset = 3072 →
    h = s.stw.header ++ padTo 1024 b → s.stw.fw ≠ .receiving → fwRefusal s true = 0 → fwCheckHeader s h true = 0 → provisioning s = false →
    4096 < fwImageLen h → Runs (.requestFirmwareData b true) s fun t =>
      t.stw.pldm = .download ∧ t.stw.fw = .receiving ∧ t.stw.prev = s.stw.fw ∧ t.stw.pathService = true ∧ t.stw.header = h ∧
      t.stw.nextOffset = 4096 ∧ t.out.head? = some (.service 9 0 (leBytes 4 4096 ++ leBytes 4 1024)) ∧ Unchanged [.stw, .out] s t) ∧
  (∀ (s : State) (b : List Byte), PldmServed s → s.stw.pldm = .download → 4096 ≤ s.stw.nextOffset → b.length = 1024 → provisioning s = false →
    s.stw.nextOffset + 1024 < fwImageLen s.stw.header → Runs (.requestFirmwareData b true) s fun t =>
      (∃ m, t.stw = { s.stw with nextOffset := s.stw.nextOffset + 1024, spi := m }) ∧
      (∀ i x, b[i]? = some x → spiByte t (fwSlotBase s.stw.target + s.stw.nextOffset + i) = x) ∧
      (∀ a, a < fwSlotBase s.stw.target + s.stw.nextOffset ∨ fwSlotBase s.stw.target + 65536 * ceilDiv (s.stw.nextOffset + 1024) 65536 ≤ a →
        spiByte t a = spiByte s a) ∧
      t.out.head? = some (.service 9 0 (leBytes 4 (s.stw.nextOffset + 1024) ++ leBytes 4 1024)) ∧ Unchanged [.stw, .out] s t) ∧
  (∀ (s : State) (b : List Byte), PldmServed s → s.stw.pldm = .download → s.stw.fw = .receiving → 4096 ≤ s.stw.nextOffset →
    provisioning s = false → fwImageLen s.stw.header = s.stw.nextOffset + 1024 → Runs (.requestFirmwareData b true) s fun t =>
      (t.stw.pldm = .complete ∧ t.stw.fw = .staged ∧ t.out.head? = some (.service 5 0 []) ∨
        t.stw.pldm = .ready ∧ t.stw.fw = s.stw.prev ∧ t.stw.lastCheck = 7 ∧ t.out.head? = some (.service 4 0x97 [])) ∧
      t.stw.nextOffset = 0 ∧ t.stw.header = [] ∧ Unchanged [.stw, .host, .err, .out] s t) ∧
  (∀ (s : State) (self : Bool), s.boot.phase = .firmware → s.stw.pldm = .complete → activateStatus s = 0 → s.boot.warm = none →
    Runs (.activateFirmware self) s fun t =>
      t.stw.pldm = .idle ∧ t.stw.fw = .pending ∧ [spiByte t (recBase (recNext s) + 9)] = leBytes 1 (targetSlot s) ∧
      (self = false → t.boot = s.boot ∧ t.out = .service 2 0 [] :: s.out ∧ Unchanged [.stw, .out] s t) ∧
      (self = true → t.boot = { s.boot with warm := some { source := .activate, due := !timeRuns s, flush := true } } ∧
        Unchanged [.boot, .stw, .lib, .host, .err, .out, .admin, .draws] s t)) ∧
  (∀ (s : State) (self : Bool), s.boot.phase = .firmware → s.stw.pldm = .complete → activateStatus s ≠ 0 →
    exec (.activateFirmware self) s = .next (pldmAnswer s 0x85 [])) ∧
  (∀ (s : State) (self : Bool), s.boot.phase = .recovery → s.stw.pldm = .complete → s.boot.warm = none →
    Runs (.activateFirmware self) s fun t =>
      t.stw.pldm = .idle ∧ [spiByte t (recBase (recNext s) + 9)] = leBytes 1 s.stw.target ∧
      t.boot = { s.boot with warm := some { source := .activate, due := !timeRuns s, flush := false } } ∧
      Unchanged [.boot, .stw, .lib, .host, .err, .out, .admin, .draws] s t) ∧
  (∀ s : State, PldmServed s → s.stw.pldm = .download → Runs .cancelUpdateComponent s fun t =>
      t.stw.pldm = .ready ∧ t.stw.fw = (if s.stw.fw = .receiving then s.stw.prev else s.stw.fw) ∧ t.stw.nextOffset = 0 ∧
      t.out = .service 2 0 [] :: s.out ∧ (∀ a, a < recLogBase → spiByte t a = spiByte s a) ∧ Unchanged [.stw, .out] s t) ∧
  (∀ s : State, PldmServed s → s.stw.pldm ≠ .idle → Runs .cancelUpdate s fun t =>
      t.stw.pldm = .idle ∧ (s.stw.pldm = .download → t.stw.fw = (if s.stw.fw = .receiving then s.stw.prev else s.stw.fw)) ∧
      (s.stw.pldm ≠ .download → t.stw = { s.stw with pldm := .idle }) ∧ t.out = .service 2 0 [] :: s.out ∧
      (∀ a, a < recLogBase → spiByte t a = spiByte s a) ∧ Unchanged [.stw, .out] s t) ∧
  (∀ (s : State) (c : Instr), PldmServed s →
    (∃ k, c = .passComponentTable k ∧ s.stw.pldm ≠ .learning) ∨ (∃ k, c = .updateComponent k ∧ s.stw.pldm ≠ .ready) ∨
    (∃ k, c = .activateFirmware k ∧ s.stw.pldm ≠ .complete) ∨ (c = .cancelUpdateComponent ∧ s.stw.pldm ≠ .download) ∨
    (c = .cancelUpdate ∧ s.stw.pldm = .idle) →
    exec c s = .next (pldmAnswer s (if s.stw.pldm = .idle then 0x80 else 0x84) [])) ∧
  (∀ s : State, s.stw.fw = .receiving → Runs .transferTimeout s fun t =>
      t.stw.fw = s.stw.prev ∧ t.stw.pldm = .idle ∧ t.stw.nextOffset = 0 ∧ (∀ a, a < recLogBase → spiByte t a = spiByte s a) ∧
      Unchanged [.stw, .host, .err, .out] s t)

/-- SENSOR_READ, PDR_READ, MCTP_CONTROL, VENDOR_LOG_READ, FAULT_RECORD_READ and ANCHOR (from R43, R305, R331, R337, R339; the codes of the answers and the IDs that can be assigned are the model's, logs 49 and 50): reads of the service port answer from the state and change none of it, but for the endpoint and terminus IDs set, log records marked as read, the summary read, and the fault record released; an anchor follows 3,600 s of log time after the last. -/
def Obligations.ServicePortReadsAndAnchors : Prop :=
  (∀ (s : State) (k : SensorKind), s.boot.phase = .firmware → k ≠ .modulePower →
    exec (.sensorRead k) s = .next { s with out := .service 6 0 (leBytes 4 (sensorValue s k).1) :: s.out }) ∧
  (∀ s : State, s.boot.phase = .firmware → 4 * s.pwr.eLast % s.tick.quarters = 0 →
    exec (.sensorRead .modulePower) s = .next { s with out := .service 6 0 (leBytes 4 (4 * s.pwr.eLast / s.tick.quarters)) :: s.out }) ∧
  (∀ s : State, s.boot.phase = .firmware → 4 * s.pwr.eLast % s.tick.quarters ≠ 0 → Runs (.sensorRead .modulePower) s fun t =>
      (∃ v, (v = 4 * s.pwr.eLast / s.tick.quarters ∨ v = 4 * s.pwr.eLast / s.tick.quarters + 1) ∧
        t.out = .service 6 0 (leBytes 4 v) :: s.out) ∧ Unchanged [.out, .draws] s t) ∧
  (∀ s : State, s.boot.phase = .firmware → exec .pdrRead s = .next { s with out := .service 6 0 (pdrBytes s) :: s.out }) ∧
  (∀ (s : State) (eid : Nat), PldmServed s → eidValid eid = true → exec (.mctpControl (.setEndpointId eid)) s =
    .next { s with stw := { s.stw with eid := eid }, out := .service 7 0 (leBytes 1 eid) :: s.out }) ∧
  (∀ (s : State) (eid : Nat), PldmServed s → eidValid eid = false →
    exec (.mctpControl (.setEndpointId eid)) s = .next { s with out := .service 7 errorInvalidData [] :: s.out }) ∧
  (∀ s : State, PldmServed s →
    exec (.mctpControl .getEndpointId) s = .next { s with out := .service 7 0 (leBytes 1 s.stw.eid) :: s.out } ∧
    exec (.mctpControl .getUuid) s = .next { s with out := .service 7 0 (leBytes 16 s.fuse.uuid) :: s.out } ∧
    exec (.mctpControl .getMessageTypes) s = .next { s with out := .service 7 0 [0x00, 0x01, 0x7E] :: s.out }) ∧
  (∀ (s : State) (tid : Nat), s.boot.phase = .firmware → tidValid tid = true → exec (.mctpControl (.pldm (.setTid tid))) s =
    .next { s with stw := { s.stw with tid := tid }, out := .service 10 0 [] :: s.out }) ∧
  (∀ s : State, s.boot.phase = .firmware →
    exec (.mctpControl (.pldm .getTid)) s = .next { s with out := .service 10 0 (leBytes 1 s.stw.tid) :: s.out } ∧
    exec (.mctpControl (.pldm .getTypes)) s = .next { s with out := .service 10 0 (leBytes 8 0x25) :: s.out }) ∧
  (∀ (s : State) (frm len : Nat), s.boot.phase = .firmware → vendorLenOk 0 len = true → Runs (.vendorLogRead 0 frm len) s fun t =>
      t.err = (advanceLogRead (readEvents s (frm % 2 ^ 32) len) (frm % 2 ^ 32) s).err ∧ s.err.logRead ≤ t.err.logRead ∧
      t.out = .service 8 0 (leBytes 4 (readEvents s (frm % 2 ^ 32) len).units ++ leBytes 4 (readEvents s (frm % 2 ^ 32) len).next ++
        padTo len (readEvents s (frm % 2 ^ 32) len).bytes ++ storeBytes s) :: s.out ∧ Unchanged [.err, .out, .ras] s t) ∧
  (∀ (s : State) (frm len : Nat), PldmServed s → vendorLenOk 1 len = true → Runs (.vendorLogRead 1 frm len) s fun t =>
      t.out = .service 8 0 (leBytes 4 (readRecovery s (frm % 2 ^ 32) len).units ++ leBytes 4 (readRecovery s (frm % 2 ^ 32) len).next ++
        padTo len (readRecovery s (frm % 2 ^ 32) len).bytes) :: s.out ∧ Unchanged [.out] s t) ∧
  (∀ (s : State) (frm len : Nat), s.boot.phase = .firmware → vendorLenOk 2 len = true → s.err.pmUnread = true →
    Runs (.vendorLogRead 2 frm len) s fun t => t.err = { s.err with pmUnread := false } ∧
      (∃ a, a.length = 8 ∧ t.out = .service 8 0 (a ++ padTo len (s.err.summary.getD [])) :: s.out) ∧ Unchanged [.err, .out, .draws, .ras] s t) ∧
  (∀ (s : State) (src frm len : Nat), s.boot.phase = .firmware → vendorLenOk src len = false ∨ src = 2 ∧ s.err.pmUnread = false →
    Runs (.vendorLogRead src frm len) s fun t => (∃ c, c ≠ 0 ∧ t.out = .service 8 c [] :: s.out) ∧ Unchanged [.out] s t) ∧
  (∀ (s : State) (r : LogRec) (rest : List LogRec), PldmServed s → s.err.unread = r :: rest → exec .faultRecordRead s =
    .next { s with err := { s.err with unread := rest }, out := .service 8 0 (logBytes r) :: s.out }) ∧
  (∀ (s : State) (d : Nat), s.boot.phase ≠ .held → s.time.logNs + d = s.err.anchorNs + 3600000000000 →
    mainOn s = false ∨ beforeBoundary s (timeAfter s d / 1000000) = true → Runs .anchor s fun t =>
      t.time = (passTime s d).time ∧ t.time.logNs = s.err.anchorNs + 3600000000000 ∧ t.err.anchorNs = t.time.logNs ∧
      (LogQuiet (passTime s d) → LogOne s t 0x0A10 (t.time.logNs / 1000 % 2 ^ 64 + stampNow (passTime s d) % 2 ^ 64 * 2 ^ 64 + chipIdReg s * 2 ^ 128)) ∧
      Unchanged [.time, .err, .host, .out, .ras] s t)

/-- HBM_PATROL_SCRUB and POOL_PATROL_SCRUB (from R326, R328, Table 17-3): a clean unit changes nothing; a corrected error is counted and nothing else; an uncorrectable one is counted and its unit poisoned; in the stream table, the directory or the state that the chip keeps in the pool it stores a chip fault of kind 2 or 3, halts every queue and asks for a warm reset without a flush; an error of a library cache line leaves the core as it was. -/
def Obligations.PatrolScrub : Prop :=
  (∀ (s : State) (u : Nat), exec (.hbmPatrolScrub u .clean) s = .next s ∧ exec (.poolPatrolScrub u .clean) s = .next s) ∧
  (∀ (s : State) (u : Nat), mainOn s = true → s.boot.hbmOk = true → 64 * u < hbmEnd →
    exec (.hbmPatrolScrub u .corrected) s = .next { s with err := { s.err with hbmCe := satAdd s.err.hbmCe 1 } }) ∧
  (∀ (s : State) (u : Nat), mainOn s = true → s.boot.hbmOk = true → 64 * u < hbmEnd → hbmCritical s u = false → hbmCached s u = false →
    Runs (.hbmPatrolScrub u .uncorrectable) s fun t =>
      t.mem = { s.mem with hbmPoison := insertNat u s.mem.hbmPoison } ∧ t.err.hbmUe = satAdd s.err.hbmUe 1 ∧
      Unchanged [.mem, .err, .host, .out, .ras] s t) ∧
  (∀ (s : State) (u : Nat), mainOn s = true → s.boot.hbmOk = true → 64 * u < hbmEnd → hbmCritical s u = true →
    Runs (.hbmPatrolScrub u .uncorrectable) s fun t =>
      t.mem = { s.mem with hbmPoison := insertNat u s.mem.hbmPoison } ∧ t.err.hbmUe = satAdd s.err.hbmUe 1 ∧ FaultStored s t 2 ∧
      t.core.halted = true ∧ (∀ q ∈ t.core.queues, q.st = .halted) ∧
      t.boot.warm = some { source := .fault, due := resetDue s || !timeRuns s, flush := false }) ∧
  (∀ (s : State) (u : Nat), mainOn s = true → s.boot.hbmOk = true → 64 * u < hbmEnd → hbmCritical s u = false → hbmCached s u = true →
    Runs (.hbmPatrolScrub u .uncorrectable) s fun t =>
      t.mem = { s.mem with hbmPoison := insertNat u s.mem.hbmPoison } ∧ t.err.hbmUe = satAdd s.err.hbmUe 1 ∧
      Unchanged [.mem, .err, .host, .out, .ras, .lib, .admin, .draws] s t) ∧
  (∀ (s : State) (w : Nat), mainOn s = true → 8 * w < 0x8000000 →
    exec (.poolPatrolScrub w .corrected) s = .next { s with err := { s.err with poolCe := satAdd s.err.poolCe 1 } }) ∧
  (∀ (s : State) (w : Nat), mainOn s = true → 8 * w < 0x8000000 → poolCritical (w / 8) = false →
    Runs (.poolPatrolScrub w .uncorrectable) s fun t =>
      t.mem = { s.mem with poolPoison := insertNat (w / 8) s.mem.poolPoison } ∧ t.err.poolUe = satAdd s.err.poolUe 1 ∧
      Unchanged [.mem, .err, .host, .out, .ras] s t) ∧
  (∀ (s : State) (w : Nat), mainOn s = true → 8 * w < 0x8000000 → poolCritical (w / 8) = true →
    Runs (.poolPatrolScrub w .uncorrectable) s fun t =>
      t.mem = { s.mem with poolPoison := insertNat (w / 8) s.mem.poolPoison } ∧ t.err.poolUe = satAdd s.err.poolUe 1 ∧ FaultStored s t 3 ∧
      t.core.halted = true ∧ (∀ q ∈ t.core.queues, q.st = .halted) ∧
      t.boot.warm = some { source := .fault, due := resetDue s || !timeRuns s, flush := false })

/-- A closed window (R67): reads of it complete with poisoned data of all ones, writes are dropped, a host's first dropped write is logged and its later ones are not, and no directory entry is made. -/
def Obligations.ClosedLibraryWindow : Prop :=
  (∀ (s : State) (ld line : Nat) (c : Instr), hostReaches s ld = true → s.lib.isOpen = false →
    (c = .cxlMemRead ld line ∨ c = .ownershipRequest ld line) →
    exec c s = .next { s with out := .cxlData ld line (List.replicate 64 0xFF) true false :: s.out }) ∧
  (∀ (s : State) (ld line : Nat) (data : List Byte), hostReaches s ld = true → s.lib.isOpen = false →
    s.host.closedLogged.toNat.testBit ld = false → exec (.cxlMemWrite ld line data) s =
      .next (emit (note { s with host := { s.host with closedLogged := s.host.closedLogged ||| ldBit ld } } 6 ld) (.cxlDropped ld line))) ∧
  (∀ (s : State) (ld line : Nat) (data : List Byte), hostReaches s ld = true → s.lib.isOpen = false →
    s.host.closedLogged.toNat.testBit ld = true →
    exec (.cxlMemWrite ld line data) s = .next { s with out := .cxlDropped ld line :: s.out }) ∧
  (∀ (s t : State) (ld line : Nat) (data : List Byte) (c : Instr), s.lib.isOpen = false →
    (c = .cxlMemRead ld line ∨ c = .ownershipRequest ld line ∨ c = .cxlMemWrite ld line data) → exec c s = .next t →
    t.lib = s.lib ∧ t.host.closedLogged.toNat.testBit ld = (s.host.closedLogged.toNat.testBit ld ||
      (hostReaches s ld && c == .cxlMemWrite ld line data)))

/-- Key slots in use (R98): a tenant key slot is in use while the active or the standby plan names it, an operator key slot never is; KEY_CLEAR of a slot in use is refused with KEY_IN_USE, and of an empty slot completes with OK. -/
def Obligations.KeySlotsInUse : Prop :=
  (∀ (s : State) (k : Nat), k < 256 → (keyInUse s k = true ↔
    (∃ p, s.core.active = some p ∧ p.keys.testBit k = true) ∨ (∃ p, s.core.standby = some p ∧ p.keys.testBit k = true))) ∧
  (∀ (s : State) (k : Nat), 256 ≤ k → keyInUse s k = false) ∧
  (∀ (s : State) (d : Desc), AdminMay s d 0x21 → keyInUse s (aArg0 d) = true →
    exec (.keyClear d) s = .next (adminDone (adminTaken s) d 0x87 0)) ∧
  (∀ (s : State) (d : Desc), AdminMay s d 0x21 → keyInUse s (aArg0 d) = false → keyOf s (aArg0 d) = none →
    ∃ t, exec (.keyClear d) s = .next (adminDone t d 0 0) ∧ t.ten.recs = s.ten.recs ∧ (∀ k, keyOf t k = keyOf s k) ∧ Unchanged [.ten, .host] s t)

/-- A step with a command in front of the queue is that command on the state with the queue's rest; with none waiting one nanosecond of log time passes, and grove time with it while the main domains are on, where the steward runs and that moment comes short of the next cut or boundary; else nothing changes (log 2, the model's choice). -/
def Obligations.StepRunsTheFrontCommand : Prop :=
  (∀ (c : Instr) (rest : List Instr) (s : State), step { s with pending := c :: rest } = exec c { s with pending := rest }) ∧
  (∀ s : State, s.pending = [] → serviceUp s = true → timeRuns s = false ∨ timeAfter s 1 / 1000000 < nextEventNs s →
    ∃ t, step s = .next t ∧ t.time.logNs = s.time.logNs + 1 ∧
      (mainOn s = true → t.time.now * 1000000 + t.time.fraction = timeAfter s 1) ∧
      (mainOn s = false → t.time.now = s.time.now ∧ t.time.fraction = s.time.fraction) ∧ Unchanged [.time] s t) ∧
  (∀ s : State, s.pending = [] → serviceUp s = false ∨ timeRuns s = true ∧ nextEventNs s ≤ timeAfter s 1 / 1000000 → step s = .next s)

/-- No command but COLD_RESET takes THERMTRIP_N back, and no command changes a fuse but to raise the SVN floor (from R44, R58, R312). -/
def Obligations.FusesAndThermtripStay : Prop :=
  ∀ s t : State, step s = .next t →
    t.fuse = { s.fuse with svnBlown := t.fuse.svnBlown } ∧ s.fuse.svnBlown ≤ t.fuse.svnBlown ∧
    (s.pin.thermtrip = true → (∀ lost rest, s.pending ≠ .coldReset lost :: rest) → t.pin.thermtrip = true)

/-- Every step keeps the byte memories in canonical form: pool, HBM, library flash, library cache and boot flash list rising addresses and no byte that an unlisted address reads as (log 6). -/
def Obligations.MemoriesStayCanonical : Prop :=
∀ s t : State, MemoriesWf s → step s = .next t → MemoriesWf t

/-- No command is refused and none touches the queue of the commands that wait; every command but LOAD and the lead loads answers a next state in every state; and those stop only beyond the end of HBM. -/
def Obligations.CommandsLeaveTheQueue : Prop :=
  (∀ (c : Instr) (s t : State), exec c s = .next t → t.pending = s.pending) ∧
  (∀ (c : Instr) (s : State) (r : Refusal), exec c s ≠ .refused r) ∧
  (∀ (c : Instr) (s : State), c ≠ .leadLoadsDone → (∀ w, c ≠ .loadBlock w ∧ c ≠ .loadStage w ∧ c ≠ .loadSpill w ∧ c ≠ .loadCopy w) →
    Completes (exec c s)) ∧
  (∀ (w : Insn) (s : State) (f : Fault), (exec (.loadBlock w) s = .fault f → ∃ r, r = blockSrc w ∧ f = .hbmRange r.1 ∧ hbmEnd < r.1 + r.2) ∧
    (exec (.loadCopy w) s = .fault f → ∃ r ∈ copyRanges w, f = .hbmRange r.1 ∧ hbmEnd < r.1 + r.2) ∧
    ((exec (.loadStage w) s = .fault f ∨ exec (.loadSpill w) s = .fault f) →
      ∃ r ∈ stageRanges s w, f = .hbmRange r.1 ∧ hbmEnd < r.1 + r.2))

/-- The machine after cold reset (from R5, R52, R53, R60, R107, R346, Tables 3-3, 4-4, 6-2, 7-16, 9-3, 12-8, 13-3, 14-5, 15-4): registers at the values their tables give, no command waiting, and the memories in canonical form. -/
def Obligations.ResetValues : Prop :=
  MemoriesWf State.reset ∧ State.reset.pending = [] ∧ State.reset.mem.pool = [] ∧ State.reset.core.slots = [] ∧
  readReg State.reset 0 0x00004 = 0xA1 ∧ readReg State.reset 0 0x10010 = 0x141 ∧ readReg State.reset 0 0x30000 = 40 ∧
  readReg State.reset 0 0x40000 = 0 ∧ readReg State.reset 0 0x40100 = 0 ∧ readReg State.reset 0 0x50000 = 0 ∧
  readReg State.reset 0 0x60000 = 1024 ∧ readReg State.reset 0 0x70000 = 0 ∧ readReg State.reset 0 0x70004 = 0 ∧
  readReg State.reset 0 0x80008 = 0 ∧ readReg State.reset 0 0x90008 = 32 ∧ readReg State.reset 0 0x9000C = 4 ∧
  readReg State.reset 0 0x90010 = 1000 ∧ readReg State.reset 0 0x90018 = 96 ∧ readReg State.reset 0 0x90028 = 100 ∧
  readReg State.reset 0 0xA0000 = 700 ∧ readReg State.reset 0 0xA0004 = 150 ∧ readReg State.reset 0 0xA0008 = 0x640008 ∧
  readReg State.reset 0 0xA000C = 0x7FF00 ∧ readReg State.reset 0 0xC0048 = 0
end

