-- ==== Sys2Proof/Laws/State.lean ====
section
/-! SUPPORT. What each update of the state leaves as it was, field by field, and what its own accessor then reads. -/

namespace Sys2Proof.Machine

variable (s : State)

/-! ### `setHost` -/

@[simp] theorem setHost_fuse (h : HostPort) : (setHost s h).fuse = s.fuse := rfl
@[simp] theorem setHost_pin (h : HostPort) : (setHost s h).pin = s.pin := rfl
@[simp] theorem setHost_boot (h : HostPort) : (setHost s h).boot = s.boot := rfl
@[simp] theorem setHost_ten (h : HostPort) : (setHost s h).ten = s.ten := rfl
@[simp] theorem setHost_str (h : HostPort) : (setHost s h).str = s.str := rfl
@[simp] theorem setHost_tick (h : HostPort) : (setHost s h).tick = s.tick := rfl
@[simp] theorem setHost_core (h : HostPort) : (setHost s h).core = s.core := rfl
@[simp] theorem setHost_mem (h : HostPort) : (setHost s h).mem = s.mem := rfl
@[simp] theorem setHost_knot (h : HostPort) : (setHost s h).knot = s.knot := rfl
@[simp] theorem setHost_sap (h : HostPort) : (setHost s h).sap = s.sap := rfl
@[simp] theorem setHost_link (h : HostPort) : (setHost s h).link = s.link := rfl
@[simp] theorem setHost_time (h : HostPort) : (setHost s h).time = s.time := rfl
@[simp] theorem setHost_lib (h : HostPort) : (setHost s h).lib = s.lib := rfl
@[simp] theorem setHost_pwr (h : HostPort) : (setHost s h).pwr = s.pwr := rfl
@[simp] theorem setHost_stw (h : HostPort) : (setHost s h).stw = s.stw := rfl
@[simp] theorem setHost_err (h : HostPort) : (setHost s h).err = s.err := rfl
@[simp] theorem setHost_dbg (h : HostPort) : (setHost s h).dbg = s.dbg := rfl
@[simp] theorem setHost_admin (h : HostPort) : (setHost s h).admin = s.admin := rfl
@[simp] theorem setHost_out (h : HostPort) : (setHost s h).out = s.out := rfl
@[simp] theorem setHost_draws (h : HostPort) : (setHost s h).draws = s.draws := rfl
@[simp] theorem setHost_pending (h : HostPort) : (setHost s h).pending = s.pending := rfl

/-! ### `setFn` -/

@[simp] theorem setFn_fuse (n : Nat) (f : FnState) : (setFn s n f).fuse = s.fuse := rfl
@[simp] theorem setFn_pin (n : Nat) (f : FnState) : (setFn s n f).pin = s.pin := rfl
@[simp] theorem setFn_boot (n : Nat) (f : FnState) : (setFn s n f).boot = s.boot := rfl
@[simp] theorem setFn_ten (n : Nat) (f : FnState) : (setFn s n f).ten = s.ten := rfl
@[simp] theorem setFn_str (n : Nat) (f : FnState) : (setFn s n f).str = s.str := rfl
@[simp] theorem setFn_tick (n : Nat) (f : FnState) : (setFn s n f).tick = s.tick := rfl
@[simp] theorem setFn_core (n : Nat) (f : FnState) : (setFn s n f).core = s.core := rfl
@[simp] theorem setFn_mem (n : Nat) (f : FnState) : (setFn s n f).mem = s.mem := rfl
@[simp] theorem setFn_knot (n : Nat) (f : FnState) : (setFn s n f).knot = s.knot := rfl
@[simp] theorem setFn_sap (n : Nat) (f : FnState) : (setFn s n f).sap = s.sap := rfl
@[simp] theorem setFn_link (n : Nat) (f : FnState) : (setFn s n f).link = s.link := rfl
@[simp] theorem setFn_time (n : Nat) (f : FnState) : (setFn s n f).time = s.time := rfl
@[simp] theorem setFn_lib (n : Nat) (f : FnState) : (setFn s n f).lib = s.lib := rfl
@[simp] theorem setFn_pwr (n : Nat) (f : FnState) : (setFn s n f).pwr = s.pwr := rfl
@[simp] theorem setFn_stw (n : Nat) (f : FnState) : (setFn s n f).stw = s.stw := rfl
@[simp] theorem setFn_err (n : Nat) (f : FnState) : (setFn s n f).err = s.err := rfl
@[simp] theorem setFn_dbg (n : Nat) (f : FnState) : (setFn s n f).dbg = s.dbg := rfl
@[simp] theorem setFn_admin (n : Nat) (f : FnState) : (setFn s n f).admin = s.admin := rfl
@[simp] theorem setFn_out (n : Nat) (f : FnState) : (setFn s n f).out = s.out := rfl
@[simp] theorem setFn_draws (n : Nat) (f : FnState) : (setFn s n f).draws = s.draws := rfl
@[simp] theorem setFn_pending (n : Nat) (f : FnState) : (setFn s n f).pending = s.pending := rfl

/-! ### `modFn` -/

@[simp] theorem modFn_fuse (n : Nat) (g : FnState → FnState) : (modFn s n g).fuse = s.fuse := rfl
@[simp] theorem modFn_pin (n : Nat) (g : FnState → FnState) : (modFn s n g).pin = s.pin := rfl
@[simp] theorem modFn_boot (n : Nat) (g : FnState → FnState) : (modFn s n g).boot = s.boot := rfl
@[simp] theorem modFn_ten (n : Nat) (g : FnState → FnState) : (modFn s n g).ten = s.ten := rfl
@[simp] theorem modFn_str (n : Nat) (g : FnState → FnState) : (modFn s n g).str = s.str := rfl
@[simp] theorem modFn_tick (n : Nat) (g : FnState → FnState) : (modFn s n g).tick = s.tick := rfl
@[simp] theorem modFn_core (n : Nat) (g : FnState → FnState) : (modFn s n g).core = s.core := rfl
@[simp] theorem modFn_mem (n : Nat) (g : FnState → FnState) : (modFn s n g).mem = s.mem := rfl
@[simp] theorem modFn_knot (n : Nat) (g : FnState → FnState) : (modFn s n g).knot = s.knot := rfl
@[simp] theorem modFn_sap (n : Nat) (g : FnState → FnState) : (modFn s n g).sap = s.sap := rfl
@[simp] theorem modFn_link (n : Nat) (g : FnState → FnState) : (modFn s n g).link = s.link := rfl
@[simp] theorem modFn_time (n : Nat) (g : FnState → FnState) : (modFn s n g).time = s.time := rfl
@[simp] theorem modFn_lib (n : Nat) (g : FnState → FnState) : (modFn s n g).lib = s.lib := rfl
@[simp] theorem modFn_pwr (n : Nat) (g : FnState → FnState) : (modFn s n g).pwr = s.pwr := rfl
@[simp] theorem modFn_stw (n : Nat) (g : FnState → FnState) : (modFn s n g).stw = s.stw := rfl
@[simp] theorem modFn_err (n : Nat) (g : FnState → FnState) : (modFn s n g).err = s.err := rfl
@[simp] theorem modFn_dbg (n : Nat) (g : FnState → FnState) : (modFn s n g).dbg = s.dbg := rfl
@[simp] theorem modFn_admin (n : Nat) (g : FnState → FnState) : (modFn s n g).admin = s.admin := rfl
@[simp] theorem modFn_out (n : Nat) (g : FnState → FnState) : (modFn s n g).out = s.out := rfl
@[simp] theorem modFn_draws (n : Nat) (g : FnState → FnState) : (modFn s n g).draws = s.draws := rfl
@[simp] theorem modFn_pending (n : Nat) (g : FnState → FnState) : (modFn s n g).pending = s.pending := rfl

/-! ### `setRing` -/

@[simp] theorem setRing_fuse (n r : Nat) (x : Ring) : (setRing s n r x).fuse = s.fuse := rfl
@[simp] theorem setRing_pin (n r : Nat) (x : Ring) : (setRing s n r x).pin = s.pin := rfl
@[simp] theorem setRing_boot (n r : Nat) (x : Ring) : (setRing s n r x).boot = s.boot := rfl
@[simp] theorem setRing_ten (n r : Nat) (x : Ring) : (setRing s n r x).ten = s.ten := rfl
@[simp] theorem setRing_str (n r : Nat) (x : Ring) : (setRing s n r x).str = s.str := rfl
@[simp] theorem setRing_tick (n r : Nat) (x : Ring) : (setRing s n r x).tick = s.tick := rfl
@[simp] theorem setRing_core (n r : Nat) (x : Ring) : (setRing s n r x).core = s.core := rfl
@[simp] theorem setRing_mem (n r : Nat) (x : Ring) : (setRing s n r x).mem = s.mem := rfl
@[simp] theorem setRing_knot (n r : Nat) (x : Ring) : (setRing s n r x).knot = s.knot := rfl
@[simp] theorem setRing_sap (n r : Nat) (x : Ring) : (setRing s n r x).sap = s.sap := rfl
@[simp] theorem setRing_link (n r : Nat) (x : Ring) : (setRing s n r x).link = s.link := rfl
@[simp] theorem setRing_time (n r : Nat) (x : Ring) : (setRing s n r x).time = s.time := rfl
@[simp] theorem setRing_lib (n r : Nat) (x : Ring) : (setRing s n r x).lib = s.lib := rfl
@[simp] theorem setRing_pwr (n r : Nat) (x : Ring) : (setRing s n r x).pwr = s.pwr := rfl
@[simp] theorem setRing_stw (n r : Nat) (x : Ring) : (setRing s n r x).stw = s.stw := rfl
@[simp] theorem setRing_err (n r : Nat) (x : Ring) : (setRing s n r x).err = s.err := rfl
@[simp] theorem setRing_dbg (n r : Nat) (x : Ring) : (setRing s n r x).dbg = s.dbg := rfl
@[simp] theorem setRing_admin (n r : Nat) (x : Ring) : (setRing s n r x).admin = s.admin := rfl
@[simp] theorem setRing_out (n r : Nat) (x : Ring) : (setRing s n r x).out = s.out := rfl
@[simp] theorem setRing_draws (n r : Nat) (x : Ring) : (setRing s n r x).draws = s.draws := rfl
@[simp] theorem setRing_pending (n r : Nat) (x : Ring) : (setRing s n r x).pending = s.pending := rfl

/-! ### `setTen` -/

@[simp] theorem setTen_fuse (t : Nat) (r : TenantRec) : (setTen s t r).fuse = s.fuse := rfl
@[simp] theorem setTen_pin (t : Nat) (r : TenantRec) : (setTen s t r).pin = s.pin := rfl
@[simp] theorem setTen_boot (t : Nat) (r : TenantRec) : (setTen s t r).boot = s.boot := rfl
@[simp] theorem setTen_host (t : Nat) (r : TenantRec) : (setTen s t r).host = s.host := rfl
@[simp] theorem setTen_str (t : Nat) (r : TenantRec) : (setTen s t r).str = s.str := rfl
@[simp] theorem setTen_tick (t : Nat) (r : TenantRec) : (setTen s t r).tick = s.tick := rfl
@[simp] theorem setTen_core (t : Nat) (r : TenantRec) : (setTen s t r).core = s.core := rfl
@[simp] theorem setTen_mem (t : Nat) (r : TenantRec) : (setTen s t r).mem = s.mem := rfl
@[simp] theorem setTen_knot (t : Nat) (r : TenantRec) : (setTen s t r).knot = s.knot := rfl
@[simp] theorem setTen_sap (t : Nat) (r : TenantRec) : (setTen s t r).sap = s.sap := rfl
@[simp] theorem setTen_link (t : Nat) (r : TenantRec) : (setTen s t r).link = s.link := rfl
@[simp] theorem setTen_time (t : Nat) (r : TenantRec) : (setTen s t r).time = s.time := rfl
@[simp] theorem setTen_lib (t : Nat) (r : TenantRec) : (setTen s t r).lib = s.lib := rfl
@[simp] theorem setTen_pwr (t : Nat) (r : TenantRec) : (setTen s t r).pwr = s.pwr := rfl
@[simp] theorem setTen_stw (t : Nat) (r : TenantRec) : (setTen s t r).stw = s.stw := rfl
@[simp] theorem setTen_err (t : Nat) (r : TenantRec) : (setTen s t r).err = s.err := rfl
@[simp] theorem setTen_dbg (t : Nat) (r : TenantRec) : (setTen s t r).dbg = s.dbg := rfl
@[simp] theorem setTen_admin (t : Nat) (r : TenantRec) : (setTen s t r).admin = s.admin := rfl
@[simp] theorem setTen_out (t : Nat) (r : TenantRec) : (setTen s t r).out = s.out := rfl
@[simp] theorem setTen_draws (t : Nat) (r : TenantRec) : (setTen s t r).draws = s.draws := rfl
@[simp] theorem setTen_pending (t : Nat) (r : TenantRec) : (setTen s t r).pending = s.pending := rfl

/-! ### `setKey` -/

@[simp] theorem setKey_fuse (k : Nat) (x : KeySlot) : (setKey s k x).fuse = s.fuse := rfl
@[simp] theorem setKey_pin (k : Nat) (x : KeySlot) : (setKey s k x).pin = s.pin := rfl
@[simp] theorem setKey_boot (k : Nat) (x : KeySlot) : (setKey s k x).boot = s.boot := rfl
@[simp] theorem setKey_host (k : Nat) (x : KeySlot) : (setKey s k x).host = s.host := rfl
@[simp] theorem setKey_str (k : Nat) (x : KeySlot) : (setKey s k x).str = s.str := rfl
@[simp] theorem setKey_tick (k : Nat) (x : KeySlot) : (setKey s k x).tick = s.tick := rfl
@[simp] theorem setKey_core (k : Nat) (x : KeySlot) : (setKey s k x).core = s.core := rfl
@[simp] theorem setKey_mem (k : Nat) (x : KeySlot) : (setKey s k x).mem = s.mem := rfl
@[simp] theorem setKey_knot (k : Nat) (x : KeySlot) : (setKey s k x).knot = s.knot := rfl
@[simp] theorem setKey_sap (k : Nat) (x : KeySlot) : (setKey s k x).sap = s.sap := rfl
@[simp] theorem setKey_link (k : Nat) (x : KeySlot) : (setKey s k x).link = s.link := rfl
@[simp] theorem setKey_time (k : Nat) (x : KeySlot) : (setKey s k x).time = s.time := rfl
@[simp] theorem setKey_lib (k : Nat) (x : KeySlot) : (setKey s k x).lib = s.lib := rfl
@[simp] theorem setKey_pwr (k : Nat) (x : KeySlot) : (setKey s k x).pwr = s.pwr := rfl
@[simp] theorem setKey_stw (k : Nat) (x : KeySlot) : (setKey s k x).stw = s.stw := rfl
@[simp] theorem setKey_err (k : Nat) (x : KeySlot) : (setKey s k x).err = s.err := rfl
@[simp] theorem setKey_dbg (k : Nat) (x : KeySlot) : (setKey s k x).dbg = s.dbg := rfl
@[simp] theorem setKey_admin (k : Nat) (x : KeySlot) : (setKey s k x).admin = s.admin := rfl
@[simp] theorem setKey_out (k : Nat) (x : KeySlot) : (setKey s k x).out = s.out := rfl
@[simp] theorem setKey_draws (k : Nat) (x : KeySlot) : (setKey s k x).draws = s.draws := rfl
@[simp] theorem setKey_pending (k : Nat) (x : KeySlot) : (setKey s k x).pending = s.pending := rfl

/-! ### `clearKey` -/

@[simp] theorem clearKey_fuse (k : Nat) : (clearKey s k).fuse = s.fuse := rfl
@[simp] theorem clearKey_pin (k : Nat) : (clearKey s k).pin = s.pin := rfl
@[simp] theorem clearKey_boot (k : Nat) : (clearKey s k).boot = s.boot := rfl
@[simp] theorem clearKey_host (k : Nat) : (clearKey s k).host = s.host := rfl
@[simp] theorem clearKey_str (k : Nat) : (clearKey s k).str = s.str := rfl
@[simp] theorem clearKey_tick (k : Nat) : (clearKey s k).tick = s.tick := rfl
@[simp] theorem clearKey_core (k : Nat) : (clearKey s k).core = s.core := rfl
@[simp] theorem clearKey_mem (k : Nat) : (clearKey s k).mem = s.mem := rfl
@[simp] theorem clearKey_knot (k : Nat) : (clearKey s k).knot = s.knot := rfl
@[simp] theorem clearKey_sap (k : Nat) : (clearKey s k).sap = s.sap := rfl
@[simp] theorem clearKey_link (k : Nat) : (clearKey s k).link = s.link := rfl
@[simp] theorem clearKey_time (k : Nat) : (clearKey s k).time = s.time := rfl
@[simp] theorem clearKey_lib (k : Nat) : (clearKey s k).lib = s.lib := rfl
@[simp] theorem clearKey_pwr (k : Nat) : (clearKey s k).pwr = s.pwr := rfl
@[simp] theorem clearKey_stw (k : Nat) : (clearKey s k).stw = s.stw := rfl
@[simp] theorem clearKey_err (k : Nat) : (clearKey s k).err = s.err := rfl
@[simp] theorem clearKey_dbg (k : Nat) : (clearKey s k).dbg = s.dbg := rfl
@[simp] theorem clearKey_admin (k : Nat) : (clearKey s k).admin = s.admin := rfl
@[simp] theorem clearKey_out (k : Nat) : (clearKey s k).out = s.out := rfl
@[simp] theorem clearKey_draws (k : Nat) : (clearKey s k).draws = s.draws := rfl
@[simp] theorem clearKey_pending (k : Nat) : (clearKey s k).pending = s.pending := rfl

/-! ### `setStream` -/

@[simp] theorem setStream_fuse (i : Nat) (x : Stream) : (setStream s i x).fuse = s.fuse := rfl
@[simp] theorem setStream_pin (i : Nat) (x : Stream) : (setStream s i x).pin = s.pin := rfl
@[simp] theorem setStream_boot (i : Nat) (x : Stream) : (setStream s i x).boot = s.boot := rfl
@[simp] theorem setStream_host (i : Nat) (x : Stream) : (setStream s i x).host = s.host := rfl
@[simp] theorem setStream_ten (i : Nat) (x : Stream) : (setStream s i x).ten = s.ten := rfl
@[simp] theorem setStream_tick (i : Nat) (x : Stream) : (setStream s i x).tick = s.tick := rfl
@[simp] theorem setStream_core (i : Nat) (x : Stream) : (setStream s i x).core = s.core := rfl
@[simp] theorem setStream_mem (i : Nat) (x : Stream) : (setStream s i x).mem = s.mem := rfl
@[simp] theorem setStream_knot (i : Nat) (x : Stream) : (setStream s i x).knot = s.knot := rfl
@[simp] theorem setStream_sap (i : Nat) (x : Stream) : (setStream s i x).sap = s.sap := rfl
@[simp] theorem setStream_link (i : Nat) (x : Stream) : (setStream s i x).link = s.link := rfl
@[simp] theorem setStream_time (i : Nat) (x : Stream) : (setStream s i x).time = s.time := rfl
@[simp] theorem setStream_lib (i : Nat) (x : Stream) : (setStream s i x).lib = s.lib := rfl
@[simp] theorem setStream_pwr (i : Nat) (x : Stream) : (setStream s i x).pwr = s.pwr := rfl
@[simp] theorem setStream_stw (i : Nat) (x : Stream) : (setStream s i x).stw = s.stw := rfl
@[simp] theorem setStream_err (i : Nat) (x : Stream) : (setStream s i x).err = s.err := rfl
@[simp] theorem setStream_dbg (i : Nat) (x : Stream) : (setStream s i x).dbg = s.dbg := rfl
@[simp] theorem setStream_admin (i : Nat) (x : Stream) : (setStream s i x).admin = s.admin := rfl
@[simp] theorem setStream_out (i : Nat) (x : Stream) : (setStream s i x).out = s.out := rfl
@[simp] theorem setStream_draws (i : Nat) (x : Stream) : (setStream s i x).draws = s.draws := rfl
@[simp] theorem setStream_pending (i : Nat) (x : Stream) : (setStream s i x).pending = s.pending := rfl

/-! ### `modStream` -/

@[simp] theorem modStream_fuse (i : Nat) (g : Stream → Stream) : (modStream s i g).fuse = s.fuse := rfl
@[simp] theorem modStream_pin (i : Nat) (g : Stream → Stream) : (modStream s i g).pin = s.pin := rfl
@[simp] theorem modStream_boot (i : Nat) (g : Stream → Stream) : (modStream s i g).boot = s.boot := rfl
@[simp] theorem modStream_host (i : Nat) (g : Stream → Stream) : (modStream s i g).host = s.host := rfl
@[simp] theorem modStream_ten (i : Nat) (g : Stream → Stream) : (modStream s i g).ten = s.ten := rfl
@[simp] theorem modStream_tick (i : Nat) (g : Stream → Stream) : (modStream s i g).tick = s.tick := rfl
@[simp] theorem modStream_core (i : Nat) (g : Stream → Stream) : (modStream s i g).core = s.core := rfl
@[simp] theorem modStream_mem (i : Nat) (g : Stream → Stream) : (modStream s i g).mem = s.mem := rfl
@[simp] theorem modStream_knot (i : Nat) (g : Stream → Stream) : (modStream s i g).knot = s.knot := rfl
@[simp] theorem modStream_sap (i : Nat) (g : Stream → Stream) : (modStream s i g).sap = s.sap := rfl
@[simp] theorem modStream_link (i : Nat) (g : Stream → Stream) : (modStream s i g).link = s.link := rfl
@[simp] theorem modStream_time (i : Nat) (g : Stream → Stream) : (modStream s i g).time = s.time := rfl
@[simp] theorem modStream_lib (i : Nat) (g : Stream → Stream) : (modStream s i g).lib = s.lib := rfl
@[simp] theorem modStream_pwr (i : Nat) (g : Stream → Stream) : (modStream s i g).pwr = s.pwr := rfl
@[simp] theorem modStream_stw (i : Nat) (g : Stream → Stream) : (modStream s i g).stw = s.stw := rfl
@[simp] theorem modStream_err (i : Nat) (g : Stream → Stream) : (modStream s i g).err = s.err := rfl
@[simp] theorem modStream_dbg (i : Nat) (g : Stream → Stream) : (modStream s i g).dbg = s.dbg := rfl
@[simp] theorem modStream_admin (i : Nat) (g : Stream → Stream) : (modStream s i g).admin = s.admin := rfl
@[simp] theorem modStream_out (i : Nat) (g : Stream → Stream) : (modStream s i g).out = s.out := rfl
@[simp] theorem modStream_draws (i : Nat) (g : Stream → Stream) : (modStream s i g).draws = s.draws := rfl
@[simp] theorem modStream_pending (i : Nat) (g : Stream → Stream) : (modStream s i g).pending = s.pending := rfl

/-! ### `setQueue` -/

@[simp] theorem setQueue_fuse (q : Nat) (x : Queue) : (setQueue s q x).fuse = s.fuse := rfl
@[simp] theorem setQueue_pin (q : Nat) (x : Queue) : (setQueue s q x).pin = s.pin := rfl
@[simp] theorem setQueue_boot (q : Nat) (x : Queue) : (setQueue s q x).boot = s.boot := rfl
@[simp] theorem setQueue_host (q : Nat) (x : Queue) : (setQueue s q x).host = s.host := rfl
@[simp] theorem setQueue_ten (q : Nat) (x : Queue) : (setQueue s q x).ten = s.ten := rfl
@[simp] theorem setQueue_str (q : Nat) (x : Queue) : (setQueue s q x).str = s.str := rfl
@[simp] theorem setQueue_tick (q : Nat) (x : Queue) : (setQueue s q x).tick = s.tick := rfl
@[simp] theorem setQueue_mem (q : Nat) (x : Queue) : (setQueue s q x).mem = s.mem := rfl
@[simp] theorem setQueue_knot (q : Nat) (x : Queue) : (setQueue s q x).knot = s.knot := rfl
@[simp] theorem setQueue_sap (q : Nat) (x : Queue) : (setQueue s q x).sap = s.sap := rfl
@[simp] theorem setQueue_link (q : Nat) (x : Queue) : (setQueue s q x).link = s.link := rfl
@[simp] theorem setQueue_time (q : Nat) (x : Queue) : (setQueue s q x).time = s.time := rfl
@[simp] theorem setQueue_lib (q : Nat) (x : Queue) : (setQueue s q x).lib = s.lib := rfl
@[simp] theorem setQueue_pwr (q : Nat) (x : Queue) : (setQueue s q x).pwr = s.pwr := rfl
@[simp] theorem setQueue_stw (q : Nat) (x : Queue) : (setQueue s q x).stw = s.stw := rfl
@[simp] theorem setQueue_err (q : Nat) (x : Queue) : (setQueue s q x).err = s.err := rfl
@[simp] theorem setQueue_dbg (q : Nat) (x : Queue) : (setQueue s q x).dbg = s.dbg := rfl
@[simp] theorem setQueue_admin (q : Nat) (x : Queue) : (setQueue s q x).admin = s.admin := rfl
@[simp] theorem setQueue_out (q : Nat) (x : Queue) : (setQueue s q x).out = s.out := rfl
@[simp] theorem setQueue_draws (q : Nat) (x : Queue) : (setQueue s q x).draws = s.draws := rfl
@[simp] theorem setQueue_pending (q : Nat) (x : Queue) : (setQueue s q x).pending = s.pending := rfl

/-! ### `setSlot` -/

@[simp] theorem setSlot_fuse (h : Nat) (x : Slot) : (setSlot s h x).fuse = s.fuse := rfl
@[simp] theorem setSlot_pin (h : Nat) (x : Slot) : (setSlot s h x).pin = s.pin := rfl
@[simp] theorem setSlot_boot (h : Nat) (x : Slot) : (setSlot s h x).boot = s.boot := rfl
@[simp] theorem setSlot_host (h : Nat) (x : Slot) : (setSlot s h x).host = s.host := rfl
@[simp] theorem setSlot_ten (h : Nat) (x : Slot) : (setSlot s h x).ten = s.ten := rfl
@[simp] theorem setSlot_str (h : Nat) (x : Slot) : (setSlot s h x).str = s.str := rfl
@[simp] theorem setSlot_tick (h : Nat) (x : Slot) : (setSlot s h x).tick = s.tick := rfl
@[simp] theorem setSlot_mem (h : Nat) (x : Slot) : (setSlot s h x).mem = s.mem := rfl
@[simp] theorem setSlot_knot (h : Nat) (x : Slot) : (setSlot s h x).knot = s.knot := rfl
@[simp] theorem setSlot_sap (h : Nat) (x : Slot) : (setSlot s h x).sap = s.sap := rfl
@[simp] theorem setSlot_link (h : Nat) (x : Slot) : (setSlot s h x).link = s.link := rfl
@[simp] theorem setSlot_time (h : Nat) (x : Slot) : (setSlot s h x).time = s.time := rfl
@[simp] theorem setSlot_lib (h : Nat) (x : Slot) : (setSlot s h x).lib = s.lib := rfl
@[simp] theorem setSlot_pwr (h : Nat) (x : Slot) : (setSlot s h x).pwr = s.pwr := rfl
@[simp] theorem setSlot_stw (h : Nat) (x : Slot) : (setSlot s h x).stw = s.stw := rfl
@[simp] theorem setSlot_err (h : Nat) (x : Slot) : (setSlot s h x).err = s.err := rfl
@[simp] theorem setSlot_dbg (h : Nat) (x : Slot) : (setSlot s h x).dbg = s.dbg := rfl
@[simp] theorem setSlot_admin (h : Nat) (x : Slot) : (setSlot s h x).admin = s.admin := rfl
@[simp] theorem setSlot_out (h : Nat) (x : Slot) : (setSlot s h x).out = s.out := rfl
@[simp] theorem setSlot_draws (h : Nat) (x : Slot) : (setSlot s h x).draws = s.draws := rfl
@[simp] theorem setSlot_pending (h : Nat) (x : Slot) : (setSlot s h x).pending = s.pending := rfl

/-! ### `setHq` -/

@[simp] theorem setHq_fuse (i : Nat) (x : List Nat) : (setHq s i x).fuse = s.fuse := rfl
@[simp] theorem setHq_pin (i : Nat) (x : List Nat) : (setHq s i x).pin = s.pin := rfl
@[simp] theorem setHq_boot (i : Nat) (x : List Nat) : (setHq s i x).boot = s.boot := rfl
@[simp] theorem setHq_host (i : Nat) (x : List Nat) : (setHq s i x).host = s.host := rfl
@[simp] theorem setHq_ten (i : Nat) (x : List Nat) : (setHq s i x).ten = s.ten := rfl
@[simp] theorem setHq_str (i : Nat) (x : List Nat) : (setHq s i x).str = s.str := rfl
@[simp] theorem setHq_tick (i : Nat) (x : List Nat) : (setHq s i x).tick = s.tick := rfl
@[simp] theorem setHq_mem (i : Nat) (x : List Nat) : (setHq s i x).mem = s.mem := rfl
@[simp] theorem setHq_knot (i : Nat) (x : List Nat) : (setHq s i x).knot = s.knot := rfl
@[simp] theorem setHq_sap (i : Nat) (x : List Nat) : (setHq s i x).sap = s.sap := rfl
@[simp] theorem setHq_link (i : Nat) (x : List Nat) : (setHq s i x).link = s.link := rfl
@[simp] theorem setHq_time (i : Nat) (x : List Nat) : (setHq s i x).time = s.time := rfl
@[simp] theorem setHq_lib (i : Nat) (x : List Nat) : (setHq s i x).lib = s.lib := rfl
@[simp] theorem setHq_pwr (i : Nat) (x : List Nat) : (setHq s i x).pwr = s.pwr := rfl
@[simp] theorem setHq_stw (i : Nat) (x : List Nat) : (setHq s i x).stw = s.stw := rfl
@[simp] theorem setHq_err (i : Nat) (x : List Nat) : (setHq s i x).err = s.err := rfl
@[simp] theorem setHq_dbg (i : Nat) (x : List Nat) : (setHq s i x).dbg = s.dbg := rfl
@[simp] theorem setHq_admin (i : Nat) (x : List Nat) : (setHq s i x).admin = s.admin := rfl
@[simp] theorem setHq_out (i : Nat) (x : List Nat) : (setHq s i x).out = s.out := rfl
@[simp] theorem setHq_draws (i : Nat) (x : List Nat) : (setHq s i x).draws = s.draws := rfl
@[simp] theorem setHq_pending (i : Nat) (x : List Nat) : (setHq s i x).pending = s.pending := rfl

/-! ### `setKnot` -/

@[simp] theorem setKnot_fuse (k v : Nat) : (setKnot s k v).fuse = s.fuse := rfl
@[simp] theorem setKnot_pin (k v : Nat) : (setKnot s k v).pin = s.pin := rfl
@[simp] theorem setKnot_boot (k v : Nat) : (setKnot s k v).boot = s.boot := rfl
@[simp] theorem setKnot_host (k v : Nat) : (setKnot s k v).host = s.host := rfl
@[simp] theorem setKnot_ten (k v : Nat) : (setKnot s k v).ten = s.ten := rfl
@[simp] theorem setKnot_str (k v : Nat) : (setKnot s k v).str = s.str := rfl
@[simp] theorem setKnot_tick (k v : Nat) : (setKnot s k v).tick = s.tick := rfl
@[simp] theorem setKnot_core (k v : Nat) : (setKnot s k v).core = s.core := rfl
@[simp] theorem setKnot_mem (k v : Nat) : (setKnot s k v).mem = s.mem := rfl
@[simp] theorem setKnot_sap (k v : Nat) : (setKnot s k v).sap = s.sap := rfl
@[simp] theorem setKnot_link (k v : Nat) : (setKnot s k v).link = s.link := rfl
@[simp] theorem setKnot_time (k v : Nat) : (setKnot s k v).time = s.time := rfl
@[simp] theorem setKnot_lib (k v : Nat) : (setKnot s k v).lib = s.lib := rfl
@[simp] theorem setKnot_pwr (k v : Nat) : (setKnot s k v).pwr = s.pwr := rfl
@[simp] theorem setKnot_stw (k v : Nat) : (setKnot s k v).stw = s.stw := rfl
@[simp] theorem setKnot_err (k v : Nat) : (setKnot s k v).err = s.err := rfl
@[simp] theorem setKnot_dbg (k v : Nat) : (setKnot s k v).dbg = s.dbg := rfl
@[simp] theorem setKnot_admin (k v : Nat) : (setKnot s k v).admin = s.admin := rfl
@[simp] theorem setKnot_out (k v : Nat) : (setKnot s k v).out = s.out := rfl
@[simp] theorem setKnot_draws (k v : Nat) : (setKnot s k v).draws = s.draws := rfl
@[simp] theorem setKnot_pending (k v : Nat) : (setKnot s k v).pending = s.pending := rfl

/-! ### `setPort` -/

@[simp] theorem setPort_fuse (p : Nat) (x : Port) : (setPort s p x).fuse = s.fuse := rfl
@[simp] theorem setPort_pin (p : Nat) (x : Port) : (setPort s p x).pin = s.pin := rfl
@[simp] theorem setPort_boot (p : Nat) (x : Port) : (setPort s p x).boot = s.boot := rfl
@[simp] theorem setPort_host (p : Nat) (x : Port) : (setPort s p x).host = s.host := rfl
@[simp] theorem setPort_ten (p : Nat) (x : Port) : (setPort s p x).ten = s.ten := rfl
@[simp] theorem setPort_str (p : Nat) (x : Port) : (setPort s p x).str = s.str := rfl
@[simp] theorem setPort_tick (p : Nat) (x : Port) : (setPort s p x).tick = s.tick := rfl
@[simp] theorem setPort_core (p : Nat) (x : Port) : (setPort s p x).core = s.core := rfl
@[simp] theorem setPort_mem (p : Nat) (x : Port) : (setPort s p x).mem = s.mem := rfl
@[simp] theorem setPort_knot (p : Nat) (x : Port) : (setPort s p x).knot = s.knot := rfl
@[simp] theorem setPort_sap (p : Nat) (x : Port) : (setPort s p x).sap = s.sap := rfl
@[simp] theorem setPort_time (p : Nat) (x : Port) : (setPort s p x).time = s.time := rfl
@[simp] theorem setPort_lib (p : Nat) (x : Port) : (setPort s p x).lib = s.lib := rfl
@[simp] theorem setPort_pwr (p : Nat) (x : Port) : (setPort s p x).pwr = s.pwr := rfl
@[simp] theorem setPort_stw (p : Nat) (x : Port) : (setPort s p x).stw = s.stw := rfl
@[simp] theorem setPort_err (p : Nat) (x : Port) : (setPort s p x).err = s.err := rfl
@[simp] theorem setPort_dbg (p : Nat) (x : Port) : (setPort s p x).dbg = s.dbg := rfl
@[simp] theorem setPort_admin (p : Nat) (x : Port) : (setPort s p x).admin = s.admin := rfl
@[simp] theorem setPort_out (p : Nat) (x : Port) : (setPort s p x).out = s.out := rfl
@[simp] theorem setPort_draws (p : Nat) (x : Port) : (setPort s p x).draws = s.draws := rfl
@[simp] theorem setPort_pending (p : Nat) (x : Port) : (setPort s p x).pending = s.pending := rfl

/-! ### `modPort` -/

@[simp] theorem modPort_fuse (p : Nat) (g : Port → Port) : (modPort s p g).fuse = s.fuse := rfl
@[simp] theorem modPort_pin (p : Nat) (g : Port → Port) : (modPort s p g).pin = s.pin := rfl
@[simp] theorem modPort_boot (p : Nat) (g : Port → Port) : (modPort s p g).boot = s.boot := rfl
@[simp] theorem modPort_host (p : Nat) (g : Port → Port) : (modPort s p g).host = s.host := rfl
@[simp] theorem modPort_ten (p : Nat) (g : Port → Port) : (modPort s p g).ten = s.ten := rfl
@[simp] theorem modPort_str (p : Nat) (g : Port → Port) : (modPort s p g).str = s.str := rfl
@[simp] theorem modPort_tick (p : Nat) (g : Port → Port) : (modPort s p g).tick = s.tick := rfl
@[simp] theorem modPort_core (p : Nat) (g : Port → Port) : (modPort s p g).core = s.core := rfl
@[simp] theorem modPort_mem (p : Nat) (g : Port → Port) : (modPort s p g).mem = s.mem := rfl
@[simp] theorem modPort_knot (p : Nat) (g : Port → Port) : (modPort s p g).knot = s.knot := rfl
@[simp] theorem modPort_sap (p : Nat) (g : Port → Port) : (modPort s p g).sap = s.sap := rfl
@[simp] theorem modPort_time (p : Nat) (g : Port → Port) : (modPort s p g).time = s.time := rfl
@[simp] theorem modPort_lib (p : Nat) (g : Port → Port) : (modPort s p g).lib = s.lib := rfl
@[simp] theorem modPort_pwr (p : Nat) (g : Port → Port) : (modPort s p g).pwr = s.pwr := rfl
@[simp] theorem modPort_stw (p : Nat) (g : Port → Port) : (modPort s p g).stw = s.stw := rfl
@[simp] theorem modPort_err (p : Nat) (g : Port → Port) : (modPort s p g).err = s.err := rfl
@[simp] theorem modPort_dbg (p : Nat) (g : Port → Port) : (modPort s p g).dbg = s.dbg := rfl
@[simp] theorem modPort_admin (p : Nat) (g : Port → Port) : (modPort s p g).admin = s.admin := rfl
@[simp] theorem modPort_out (p : Nat) (g : Port → Port) : (modPort s p g).out = s.out := rfl
@[simp] theorem modPort_draws (p : Nat) (g : Port → Port) : (modPort s p g).draws = s.draws := rfl
@[simp] theorem modPort_pending (p : Nat) (g : Port → Port) : (modPort s p g).pending = s.pending := rfl

/-! ### `emit` -/

@[simp] theorem emit_fuse (o : Out) : (emit s o).fuse = s.fuse := rfl
@[simp] theorem emit_pin (o : Out) : (emit s o).pin = s.pin := rfl
@[simp] theorem emit_boot (o : Out) : (emit s o).boot = s.boot := rfl
@[simp] theorem emit_host (o : Out) : (emit s o).host = s.host := rfl
@[simp] theorem emit_ten (o : Out) : (emit s o).ten = s.ten := rfl
@[simp] theorem emit_str (o : Out) : (emit s o).str = s.str := rfl
@[simp] theorem emit_tick (o : Out) : (emit s o).tick = s.tick := rfl
@[simp] theorem emit_core (o : Out) : (emit s o).core = s.core := rfl
@[simp] theorem emit_mem (o : Out) : (emit s o).mem = s.mem := rfl
@[simp] theorem emit_knot (o : Out) : (emit s o).knot = s.knot := rfl
@[simp] theorem emit_sap (o : Out) : (emit s o).sap = s.sap := rfl
@[simp] theorem emit_link (o : Out) : (emit s o).link = s.link := rfl
@[simp] theorem emit_time (o : Out) : (emit s o).time = s.time := rfl
@[simp] theorem emit_lib (o : Out) : (emit s o).lib = s.lib := rfl
@[simp] theorem emit_pwr (o : Out) : (emit s o).pwr = s.pwr := rfl
@[simp] theorem emit_stw (o : Out) : (emit s o).stw = s.stw := rfl
@[simp] theorem emit_err (o : Out) : (emit s o).err = s.err := rfl
@[simp] theorem emit_dbg (o : Out) : (emit s o).dbg = s.dbg := rfl
@[simp] theorem emit_admin (o : Out) : (emit s o).admin = s.admin := rfl
@[simp] theorem emit_draws (o : Out) : (emit s o).draws = s.draws := rfl
@[simp] theorem emit_pending (o : Out) : (emit s o).pending = s.pending := rfl

/-! ### `poolWrite` -/

@[simp] theorem poolWrite_fuse (a : Nat) (bs : List Byte) : (poolWrite s a bs).fuse = s.fuse := rfl
@[simp] theorem poolWrite_pin (a : Nat) (bs : List Byte) : (poolWrite s a bs).pin = s.pin := rfl
@[simp] theorem poolWrite_boot (a : Nat) (bs : List Byte) : (poolWrite s a bs).boot = s.boot := rfl
@[simp] theorem poolWrite_host (a : Nat) (bs : List Byte) : (poolWrite s a bs).host = s.host := rfl
@[simp] theorem poolWrite_ten (a : Nat) (bs : List Byte) : (poolWrite s a bs).ten = s.ten := rfl
@[simp] theorem poolWrite_str (a : Nat) (bs : List Byte) : (poolWrite s a bs).str = s.str := rfl
@[simp] theorem poolWrite_tick (a : Nat) (bs : List Byte) : (poolWrite s a bs).tick = s.tick := rfl
@[simp] theorem poolWrite_core (a : Nat) (bs : List Byte) : (poolWrite s a bs).core = s.core := rfl
@[simp] theorem poolWrite_knot (a : Nat) (bs : List Byte) : (poolWrite s a bs).knot = s.knot := rfl
@[simp] theorem poolWrite_sap (a : Nat) (bs : List Byte) : (poolWrite s a bs).sap = s.sap := rfl
@[simp] theorem poolWrite_link (a : Nat) (bs : List Byte) : (poolWrite s a bs).link = s.link := rfl
@[simp] theorem poolWrite_time (a : Nat) (bs : List Byte) : (poolWrite s a bs).time = s.time := rfl
@[simp] theorem poolWrite_lib (a : Nat) (bs : List Byte) : (poolWrite s a bs).lib = s.lib := rfl
@[simp] theorem poolWrite_pwr (a : Nat) (bs : List Byte) : (poolWrite s a bs).pwr = s.pwr := rfl
@[simp] theorem poolWrite_stw (a : Nat) (bs : List Byte) : (poolWrite s a bs).stw = s.stw := rfl
@[simp] theorem poolWrite_err (a : Nat) (bs : List Byte) : (poolWrite s a bs).err = s.err := rfl
@[simp] theorem poolWrite_dbg (a : Nat) (bs : List Byte) : (poolWrite s a bs).dbg = s.dbg := rfl
@[simp] theorem poolWrite_admin (a : Nat) (bs : List Byte) : (poolWrite s a bs).admin = s.admin := rfl
@[simp] theorem poolWrite_out (a : Nat) (bs : List Byte) : (poolWrite s a bs).out = s.out := rfl
@[simp] theorem poolWrite_draws (a : Nat) (bs : List Byte) : (poolWrite s a bs).draws = s.draws := rfl
@[simp] theorem poolWrite_pending (a : Nat) (bs : List Byte) : (poolWrite s a bs).pending = s.pending := rfl

/-! ### `slotZero` -/

@[simp] theorem slotZero_fuse (h : Nat) : (slotZero s h).fuse = s.fuse := rfl
@[simp] theorem slotZero_pin (h : Nat) : (slotZero s h).pin = s.pin := rfl
@[simp] theorem slotZero_boot (h : Nat) : (slotZero s h).boot = s.boot := rfl
@[simp] theorem slotZero_host (h : Nat) : (slotZero s h).host = s.host := rfl
@[simp] theorem slotZero_ten (h : Nat) : (slotZero s h).ten = s.ten := rfl
@[simp] theorem slotZero_str (h : Nat) : (slotZero s h).str = s.str := rfl
@[simp] theorem slotZero_tick (h : Nat) : (slotZero s h).tick = s.tick := rfl
@[simp] theorem slotZero_core (h : Nat) : (slotZero s h).core = s.core := rfl
@[simp] theorem slotZero_knot (h : Nat) : (slotZero s h).knot = s.knot := rfl
@[simp] theorem slotZero_sap (h : Nat) : (slotZero s h).sap = s.sap := rfl
@[simp] theorem slotZero_link (h : Nat) : (slotZero s h).link = s.link := rfl
@[simp] theorem slotZero_time (h : Nat) : (slotZero s h).time = s.time := rfl
@[simp] theorem slotZero_lib (h : Nat) : (slotZero s h).lib = s.lib := rfl
@[simp] theorem slotZero_pwr (h : Nat) : (slotZero s h).pwr = s.pwr := rfl
@[simp] theorem slotZero_stw (h : Nat) : (slotZero s h).stw = s.stw := rfl
@[simp] theorem slotZero_err (h : Nat) : (slotZero s h).err = s.err := rfl
@[simp] theorem slotZero_dbg (h : Nat) : (slotZero s h).dbg = s.dbg := rfl
@[simp] theorem slotZero_admin (h : Nat) : (slotZero s h).admin = s.admin := rfl
@[simp] theorem slotZero_out (h : Nat) : (slotZero s h).out = s.out := rfl
@[simp] theorem slotZero_draws (h : Nat) : (slotZero s h).draws = s.draws := rfl
@[simp] theorem slotZero_pending (h : Nat) : (slotZero s h).pending = s.pending := rfl

/-! ### `hbmWrite` -/

@[simp] theorem hbmWrite_fuse (a : Nat) (bs : List Byte) : (hbmWrite s a bs).fuse = s.fuse := rfl
@[simp] theorem hbmWrite_pin (a : Nat) (bs : List Byte) : (hbmWrite s a bs).pin = s.pin := rfl
@[simp] theorem hbmWrite_boot (a : Nat) (bs : List Byte) : (hbmWrite s a bs).boot = s.boot := rfl
@[simp] theorem hbmWrite_host (a : Nat) (bs : List Byte) : (hbmWrite s a bs).host = s.host := rfl
@[simp] theorem hbmWrite_ten (a : Nat) (bs : List Byte) : (hbmWrite s a bs).ten = s.ten := rfl
@[simp] theorem hbmWrite_str (a : Nat) (bs : List Byte) : (hbmWrite s a bs).str = s.str := rfl
@[simp] theorem hbmWrite_tick (a : Nat) (bs : List Byte) : (hbmWrite s a bs).tick = s.tick := rfl
@[simp] theorem hbmWrite_core (a : Nat) (bs : List Byte) : (hbmWrite s a bs).core = s.core := rfl
@[simp] theorem hbmWrite_knot (a : Nat) (bs : List Byte) : (hbmWrite s a bs).knot = s.knot := rfl
@[simp] theorem hbmWrite_sap (a : Nat) (bs : List Byte) : (hbmWrite s a bs).sap = s.sap := rfl
@[simp] theorem hbmWrite_link (a : Nat) (bs : List Byte) : (hbmWrite s a bs).link = s.link := rfl
@[simp] theorem hbmWrite_time (a : Nat) (bs : List Byte) : (hbmWrite s a bs).time = s.time := rfl
@[simp] theorem hbmWrite_lib (a : Nat) (bs : List Byte) : (hbmWrite s a bs).lib = s.lib := rfl
@[simp] theorem hbmWrite_pwr (a : Nat) (bs : List Byte) : (hbmWrite s a bs).pwr = s.pwr := rfl
@[simp] theorem hbmWrite_stw (a : Nat) (bs : List Byte) : (hbmWrite s a bs).stw = s.stw := rfl
@[simp] theorem hbmWrite_err (a : Nat) (bs : List Byte) : (hbmWrite s a bs).err = s.err := rfl
@[simp] theorem hbmWrite_dbg (a : Nat) (bs : List Byte) : (hbmWrite s a bs).dbg = s.dbg := rfl
@[simp] theorem hbmWrite_admin (a : Nat) (bs : List Byte) : (hbmWrite s a bs).admin = s.admin := rfl
@[simp] theorem hbmWrite_out (a : Nat) (bs : List Byte) : (hbmWrite s a bs).out = s.out := rfl
@[simp] theorem hbmWrite_draws (a : Nat) (bs : List Byte) : (hbmWrite s a bs).draws = s.draws := rfl
@[simp] theorem hbmWrite_pending (a : Nat) (bs : List Byte) : (hbmWrite s a bs).pending = s.pending := rfl

/-! ### `hbmZero` -/

@[simp] theorem hbmZero_fuse (a n : Nat) : (hbmZero s a n).fuse = s.fuse := rfl
@[simp] theorem hbmZero_pin (a n : Nat) : (hbmZero s a n).pin = s.pin := rfl
@[simp] theorem hbmZero_boot (a n : Nat) : (hbmZero s a n).boot = s.boot := rfl
@[simp] theorem hbmZero_host (a n : Nat) : (hbmZero s a n).host = s.host := rfl
@[simp] theorem hbmZero_ten (a n : Nat) : (hbmZero s a n).ten = s.ten := rfl
@[simp] theorem hbmZero_str (a n : Nat) : (hbmZero s a n).str = s.str := rfl
@[simp] theorem hbmZero_tick (a n : Nat) : (hbmZero s a n).tick = s.tick := rfl
@[simp] theorem hbmZero_core (a n : Nat) : (hbmZero s a n).core = s.core := rfl
@[simp] theorem hbmZero_knot (a n : Nat) : (hbmZero s a n).knot = s.knot := rfl
@[simp] theorem hbmZero_sap (a n : Nat) : (hbmZero s a n).sap = s.sap := rfl
@[simp] theorem hbmZero_link (a n : Nat) : (hbmZero s a n).link = s.link := rfl
@[simp] theorem hbmZero_time (a n : Nat) : (hbmZero s a n).time = s.time := rfl
@[simp] theorem hbmZero_lib (a n : Nat) : (hbmZero s a n).lib = s.lib := rfl
@[simp] theorem hbmZero_pwr (a n : Nat) : (hbmZero s a n).pwr = s.pwr := rfl
@[simp] theorem hbmZero_stw (a n : Nat) : (hbmZero s a n).stw = s.stw := rfl
@[simp] theorem hbmZero_err (a n : Nat) : (hbmZero s a n).err = s.err := rfl
@[simp] theorem hbmZero_dbg (a n : Nat) : (hbmZero s a n).dbg = s.dbg := rfl
@[simp] theorem hbmZero_admin (a n : Nat) : (hbmZero s a n).admin = s.admin := rfl
@[simp] theorem hbmZero_out (a n : Nat) : (hbmZero s a n).out = s.out := rfl
@[simp] theorem hbmZero_draws (a n : Nat) : (hbmZero s a n).draws = s.draws := rfl
@[simp] theorem hbmZero_pending (a n : Nat) : (hbmZero s a n).pending = s.pending := rfl

/-! ### `hbmToPool` -/

@[simp] theorem hbmToPool_fuse (src dst n : Nat) : (hbmToPool s src dst n).fuse = s.fuse := rfl
@[simp] theorem hbmToPool_pin (src dst n : Nat) : (hbmToPool s src dst n).pin = s.pin := rfl
@[simp] theorem hbmToPool_boot (src dst n : Nat) : (hbmToPool s src dst n).boot = s.boot := rfl
@[simp] theorem hbmToPool_host (src dst n : Nat) : (hbmToPool s src dst n).host = s.host := rfl
@[simp] theorem hbmToPool_ten (src dst n : Nat) : (hbmToPool s src dst n).ten = s.ten := rfl
@[simp] theorem hbmToPool_str (src dst n : Nat) : (hbmToPool s src dst n).str = s.str := rfl
@[simp] theorem hbmToPool_tick (src dst n : Nat) : (hbmToPool s src dst n).tick = s.tick := rfl
@[simp] theorem hbmToPool_core (src dst n : Nat) : (hbmToPool s src dst n).core = s.core := rfl
@[simp] theorem hbmToPool_knot (src dst n : Nat) : (hbmToPool s src dst n).knot = s.knot := rfl
@[simp] theorem hbmToPool_sap (src dst n : Nat) : (hbmToPool s src dst n).sap = s.sap := rfl
@[simp] theorem hbmToPool_link (src dst n : Nat) : (hbmToPool s src dst n).link = s.link := rfl
@[simp] theorem hbmToPool_time (src dst n : Nat) : (hbmToPool s src dst n).time = s.time := rfl
@[simp] theorem hbmToPool_lib (src dst n : Nat) : (hbmToPool s src dst n).lib = s.lib := rfl
@[simp] theorem hbmToPool_pwr (src dst n : Nat) : (hbmToPool s src dst n).pwr = s.pwr := rfl
@[simp] theorem hbmToPool_stw (src dst n : Nat) : (hbmToPool s src dst n).stw = s.stw := rfl
@[simp] theorem hbmToPool_err (src dst n : Nat) : (hbmToPool s src dst n).err = s.err := rfl
@[simp] theorem hbmToPool_dbg (src dst n : Nat) : (hbmToPool s src dst n).dbg = s.dbg := rfl
@[simp] theorem hbmToPool_admin (src dst n : Nat) : (hbmToPool s src dst n).admin = s.admin := rfl
@[simp] theorem hbmToPool_out (src dst n : Nat) : (hbmToPool s src dst n).out = s.out := rfl
@[simp] theorem hbmToPool_draws (src dst n : Nat) : (hbmToPool s src dst n).draws = s.draws := rfl
@[simp] theorem hbmToPool_pending (src dst n : Nat) : (hbmToPool s src dst n).pending = s.pending := rfl

/-! ### `poolToHbm` -/

@[simp] theorem poolToHbm_fuse (src dst n : Nat) : (poolToHbm s src dst n).fuse = s.fuse := rfl
@[simp] theorem poolToHbm_pin (src dst n : Nat) : (poolToHbm s src dst n).pin = s.pin := rfl
@[simp] theorem poolToHbm_boot (src dst n : Nat) : (poolToHbm s src dst n).boot = s.boot := rfl
@[simp] theorem poolToHbm_host (src dst n : Nat) : (poolToHbm s src dst n).host = s.host := rfl
@[simp] theorem poolToHbm_ten (src dst n : Nat) : (poolToHbm s src dst n).ten = s.ten := rfl
@[simp] theorem poolToHbm_str (src dst n : Nat) : (poolToHbm s src dst n).str = s.str := rfl
@[simp] theorem poolToHbm_tick (src dst n : Nat) : (poolToHbm s src dst n).tick = s.tick := rfl
@[simp] theorem poolToHbm_core (src dst n : Nat) : (poolToHbm s src dst n).core = s.core := rfl
@[simp] theorem poolToHbm_knot (src dst n : Nat) : (poolToHbm s src dst n).knot = s.knot := rfl
@[simp] theorem poolToHbm_sap (src dst n : Nat) : (poolToHbm s src dst n).sap = s.sap := rfl
@[simp] theorem poolToHbm_link (src dst n : Nat) : (poolToHbm s src dst n).link = s.link := rfl
@[simp] theorem poolToHbm_time (src dst n : Nat) : (poolToHbm s src dst n).time = s.time := rfl
@[simp] theorem poolToHbm_lib (src dst n : Nat) : (poolToHbm s src dst n).lib = s.lib := rfl
@[simp] theorem poolToHbm_pwr (src dst n : Nat) : (poolToHbm s src dst n).pwr = s.pwr := rfl
@[simp] theorem poolToHbm_stw (src dst n : Nat) : (poolToHbm s src dst n).stw = s.stw := rfl
@[simp] theorem poolToHbm_err (src dst n : Nat) : (poolToHbm s src dst n).err = s.err := rfl
@[simp] theorem poolToHbm_dbg (src dst n : Nat) : (poolToHbm s src dst n).dbg = s.dbg := rfl
@[simp] theorem poolToHbm_admin (src dst n : Nat) : (poolToHbm s src dst n).admin = s.admin := rfl
@[simp] theorem poolToHbm_out (src dst n : Nat) : (poolToHbm s src dst n).out = s.out := rfl
@[simp] theorem poolToHbm_draws (src dst n : Nat) : (poolToHbm s src dst n).draws = s.draws := rfl
@[simp] theorem poolToHbm_pending (src dst n : Nat) : (poolToHbm s src dst n).pending = s.pending := rfl

/-! ### `hbmToHbm` -/

@[simp] theorem hbmToHbm_fuse (src dst n : Nat) : (hbmToHbm s src dst n).fuse = s.fuse := rfl
@[simp] theorem hbmToHbm_pin (src dst n : Nat) : (hbmToHbm s src dst n).pin = s.pin := rfl
@[simp] theorem hbmToHbm_boot (src dst n : Nat) : (hbmToHbm s src dst n).boot = s.boot := rfl
@[simp] theorem hbmToHbm_host (src dst n : Nat) : (hbmToHbm s src dst n).host = s.host := rfl
@[simp] theorem hbmToHbm_ten (src dst n : Nat) : (hbmToHbm s src dst n).ten = s.ten := rfl
@[simp] theorem hbmToHbm_str (src dst n : Nat) : (hbmToHbm s src dst n).str = s.str := rfl
@[simp] theorem hbmToHbm_tick (src dst n : Nat) : (hbmToHbm s src dst n).tick = s.tick := rfl
@[simp] theorem hbmToHbm_core (src dst n : Nat) : (hbmToHbm s src dst n).core = s.core := rfl
@[simp] theorem hbmToHbm_knot (src dst n : Nat) : (hbmToHbm s src dst n).knot = s.knot := rfl
@[simp] theorem hbmToHbm_sap (src dst n : Nat) : (hbmToHbm s src dst n).sap = s.sap := rfl
@[simp] theorem hbmToHbm_link (src dst n : Nat) : (hbmToHbm s src dst n).link = s.link := rfl
@[simp] theorem hbmToHbm_time (src dst n : Nat) : (hbmToHbm s src dst n).time = s.time := rfl
@[simp] theorem hbmToHbm_lib (src dst n : Nat) : (hbmToHbm s src dst n).lib = s.lib := rfl
@[simp] theorem hbmToHbm_pwr (src dst n : Nat) : (hbmToHbm s src dst n).pwr = s.pwr := rfl
@[simp] theorem hbmToHbm_stw (src dst n : Nat) : (hbmToHbm s src dst n).stw = s.stw := rfl
@[simp] theorem hbmToHbm_err (src dst n : Nat) : (hbmToHbm s src dst n).err = s.err := rfl
@[simp] theorem hbmToHbm_dbg (src dst n : Nat) : (hbmToHbm s src dst n).dbg = s.dbg := rfl
@[simp] theorem hbmToHbm_admin (src dst n : Nat) : (hbmToHbm s src dst n).admin = s.admin := rfl
@[simp] theorem hbmToHbm_out (src dst n : Nat) : (hbmToHbm s src dst n).out = s.out := rfl
@[simp] theorem hbmToHbm_draws (src dst n : Nat) : (hbmToHbm s src dst n).draws = s.draws := rfl
@[simp] theorem hbmToHbm_pending (src dst n : Nat) : (hbmToHbm s src dst n).pending = s.pending := rfl

/-! ### `spiWrite` -/

@[simp] theorem spiWrite_fuse (a : Nat) (bs : List Byte) : (spiWrite s a bs).fuse = s.fuse := rfl
@[simp] theorem spiWrite_pin (a : Nat) (bs : List Byte) : (spiWrite s a bs).pin = s.pin := rfl
@[simp] theorem spiWrite_boot (a : Nat) (bs : List Byte) : (spiWrite s a bs).boot = s.boot := rfl
@[simp] theorem spiWrite_host (a : Nat) (bs : List Byte) : (spiWrite s a bs).host = s.host := rfl
@[simp] theorem spiWrite_ten (a : Nat) (bs : List Byte) : (spiWrite s a bs).ten = s.ten := rfl
@[simp] theorem spiWrite_str (a : Nat) (bs : List Byte) : (spiWrite s a bs).str = s.str := rfl
@[simp] theorem spiWrite_tick (a : Nat) (bs : List Byte) : (spiWrite s a bs).tick = s.tick := rfl
@[simp] theorem spiWrite_core (a : Nat) (bs : List Byte) : (spiWrite s a bs).core = s.core := rfl
@[simp] theorem spiWrite_mem (a : Nat) (bs : List Byte) : (spiWrite s a bs).mem = s.mem := rfl
@[simp] theorem spiWrite_knot (a : Nat) (bs : List Byte) : (spiWrite s a bs).knot = s.knot := rfl
@[simp] theorem spiWrite_sap (a : Nat) (bs : List Byte) : (spiWrite s a bs).sap = s.sap := rfl
@[simp] theorem spiWrite_link (a : Nat) (bs : List Byte) : (spiWrite s a bs).link = s.link := rfl
@[simp] theorem spiWrite_time (a : Nat) (bs : List Byte) : (spiWrite s a bs).time = s.time := rfl
@[simp] theorem spiWrite_lib (a : Nat) (bs : List Byte) : (spiWrite s a bs).lib = s.lib := rfl
@[simp] theorem spiWrite_pwr (a : Nat) (bs : List Byte) : (spiWrite s a bs).pwr = s.pwr := rfl
@[simp] theorem spiWrite_err (a : Nat) (bs : List Byte) : (spiWrite s a bs).err = s.err := rfl
@[simp] theorem spiWrite_dbg (a : Nat) (bs : List Byte) : (spiWrite s a bs).dbg = s.dbg := rfl
@[simp] theorem spiWrite_admin (a : Nat) (bs : List Byte) : (spiWrite s a bs).admin = s.admin := rfl
@[simp] theorem spiWrite_out (a : Nat) (bs : List Byte) : (spiWrite s a bs).out = s.out := rfl
@[simp] theorem spiWrite_draws (a : Nat) (bs : List Byte) : (spiWrite s a bs).draws = s.draws := rfl
@[simp] theorem spiWrite_pending (a : Nat) (bs : List Byte) : (spiWrite s a bs).pending = s.pending := rfl

/-! ### `spiErase` -/

@[simp] theorem spiErase_fuse (a n : Nat) : (spiErase s a n).fuse = s.fuse := rfl
@[simp] theorem spiErase_pin (a n : Nat) : (spiErase s a n).pin = s.pin := rfl
@[simp] theorem spiErase_boot (a n : Nat) : (spiErase s a n).boot = s.boot := rfl
@[simp] theorem spiErase_host (a n : Nat) : (spiErase s a n).host = s.host := rfl
@[simp] theorem spiErase_ten (a n : Nat) : (spiErase s a n).ten = s.ten := rfl
@[simp] theorem spiErase_str (a n : Nat) : (spiErase s a n).str = s.str := rfl
@[simp] theorem spiErase_tick (a n : Nat) : (spiErase s a n).tick = s.tick := rfl
@[simp] theorem spiErase_core (a n : Nat) : (spiErase s a n).core = s.core := rfl
@[simp] theorem spiErase_mem (a n : Nat) : (spiErase s a n).mem = s.mem := rfl
@[simp] theorem spiErase_knot (a n : Nat) : (spiErase s a n).knot = s.knot := rfl
@[simp] theorem spiErase_sap (a n : Nat) : (spiErase s a n).sap = s.sap := rfl
@[simp] theorem spiErase_link (a n : Nat) : (spiErase s a n).link = s.link := rfl
@[simp] theorem spiErase_time (a n : Nat) : (spiErase s a n).time = s.time := rfl
@[simp] theorem spiErase_lib (a n : Nat) : (spiErase s a n).lib = s.lib := rfl
@[simp] theorem spiErase_pwr (a n : Nat) : (spiErase s a n).pwr = s.pwr := rfl
@[simp] theorem spiErase_err (a n : Nat) : (spiErase s a n).err = s.err := rfl
@[simp] theorem spiErase_dbg (a n : Nat) : (spiErase s a n).dbg = s.dbg := rfl
@[simp] theorem spiErase_admin (a n : Nat) : (spiErase s a n).admin = s.admin := rfl
@[simp] theorem spiErase_out (a n : Nat) : (spiErase s a n).out = s.out := rfl
@[simp] theorem spiErase_draws (a n : Nat) : (spiErase s a n).draws = s.draws := rfl
@[simp] theorem spiErase_pending (a n : Nat) : (spiErase s a n).pending = s.pending := rfl

/-! ### `drawRandom` and `advanceTo` -/

@[simp] theorem drawRandom_fuse (m : Nat) : (drawRandom s m).2.fuse = s.fuse := rfl
@[simp] theorem drawRandom_pin (m : Nat) : (drawRandom s m).2.pin = s.pin := rfl
@[simp] theorem drawRandom_boot (m : Nat) : (drawRandom s m).2.boot = s.boot := rfl
@[simp] theorem drawRandom_host (m : Nat) : (drawRandom s m).2.host = s.host := rfl
@[simp] theorem drawRandom_ten (m : Nat) : (drawRandom s m).2.ten = s.ten := rfl
@[simp] theorem drawRandom_str (m : Nat) : (drawRandom s m).2.str = s.str := rfl
@[simp] theorem drawRandom_tick (m : Nat) : (drawRandom s m).2.tick = s.tick := rfl
@[simp] theorem drawRandom_core (m : Nat) : (drawRandom s m).2.core = s.core := rfl
@[simp] theorem drawRandom_mem (m : Nat) : (drawRandom s m).2.mem = s.mem := rfl
@[simp] theorem drawRandom_knot (m : Nat) : (drawRandom s m).2.knot = s.knot := rfl
@[simp] theorem drawRandom_sap (m : Nat) : (drawRandom s m).2.sap = s.sap := rfl
@[simp] theorem drawRandom_link (m : Nat) : (drawRandom s m).2.link = s.link := rfl
@[simp] theorem drawRandom_time (m : Nat) : (drawRandom s m).2.time = s.time := rfl
@[simp] theorem drawRandom_lib (m : Nat) : (drawRandom s m).2.lib = s.lib := rfl
@[simp] theorem drawRandom_pwr (m : Nat) : (drawRandom s m).2.pwr = s.pwr := rfl
@[simp] theorem drawRandom_stw (m : Nat) : (drawRandom s m).2.stw = s.stw := rfl
@[simp] theorem drawRandom_err (m : Nat) : (drawRandom s m).2.err = s.err := rfl
@[simp] theorem drawRandom_dbg (m : Nat) : (drawRandom s m).2.dbg = s.dbg := rfl
@[simp] theorem drawRandom_admin (m : Nat) : (drawRandom s m).2.admin = s.admin := rfl
@[simp] theorem drawRandom_out (m : Nat) : (drawRandom s m).2.out = s.out := rfl
@[simp] theorem drawRandom_pending (m : Nat) : (drawRandom s m).2.pending = s.pending := rfl
@[simp] theorem drawRandom_draws (m : Nat) : (drawRandom s m).2.draws = s.draws + 1 := rfl
@[simp] theorem drawRandom_fst (m : Nat) : (drawRandom s m).1 = Config.entropy s.draws % m := rfl

@[simp] theorem advanceTo_fuse (t : Nat) : (advanceTo s t).fuse = s.fuse := by unfold advanceTo; split <;> rfl
@[simp] theorem advanceTo_pin (t : Nat) : (advanceTo s t).pin = s.pin := by unfold advanceTo; split <;> rfl
@[simp] theorem advanceTo_boot (t : Nat) : (advanceTo s t).boot = s.boot := by unfold advanceTo; split <;> rfl
@[simp] theorem advanceTo_host (t : Nat) : (advanceTo s t).host = s.host := by unfold advanceTo; split <;> rfl
@[simp] theorem advanceTo_ten (t : Nat) : (advanceTo s t).ten = s.ten := by unfold advanceTo; split <;> rfl
@[simp] theorem advanceTo_str (t : Nat) : (advanceTo s t).str = s.str := by unfold advanceTo; split <;> rfl
@[simp] theorem advanceTo_tick (t : Nat) : (advanceTo s t).tick = s.tick := by unfold advanceTo; split <;> rfl
@[simp] theorem advanceTo_core (t : Nat) : (advanceTo s t).core = s.core := by unfold advanceTo; split <;> rfl
@[simp] theorem advanceTo_mem (t : Nat) : (advanceTo s t).mem = s.mem := by unfold advanceTo; split <;> rfl
@[simp] theorem advanceTo_knot (t : Nat) : (advanceTo s t).knot = s.knot := by unfold advanceTo; split <;> rfl
@[simp] theorem advanceTo_sap (t : Nat) : (advanceTo s t).sap = s.sap := by unfold advanceTo; split <;> rfl
@[simp] theorem advanceTo_link (t : Nat) : (advanceTo s t).link = s.link := by unfold advanceTo; split <;> rfl
@[simp] theorem advanceTo_lib (t : Nat) : (advanceTo s t).lib = s.lib := by unfold advanceTo; split <;> rfl
@[simp] theorem advanceTo_pwr (t : Nat) : (advanceTo s t).pwr = s.pwr := by unfold advanceTo; split <;> rfl
@[simp] theorem advanceTo_stw (t : Nat) : (advanceTo s t).stw = s.stw := by unfold advanceTo; split <;> rfl
@[simp] theorem advanceTo_err (t : Nat) : (advanceTo s t).err = s.err := by unfold advanceTo; split <;> rfl
@[simp] theorem advanceTo_dbg (t : Nat) : (advanceTo s t).dbg = s.dbg := by unfold advanceTo; split <;> rfl
@[simp] theorem advanceTo_admin (t : Nat) : (advanceTo s t).admin = s.admin := by unfold advanceTo; split <;> rfl
@[simp] theorem advanceTo_out (t : Nat) : (advanceTo s t).out = s.out := by unfold advanceTo; split <;> rfl
@[simp] theorem advanceTo_draws (t : Nat) : (advanceTo s t).draws = s.draws := by unfold advanceTo; split <;> rfl
@[simp] theorem advanceTo_pending (t : Nat) : (advanceTo s t).pending = s.pending := by unfold advanceTo; split <;> rfl

/-- Time brought forward never goes back, and reaches the moment named. -/
theorem advanceTo_now (t : Nat) : (advanceTo s t).time.now = max s.time.now t := by
  unfold advanceTo
  split
  · simp only; omega
  · omega

/-! ### Tables and lists by number -/

section
variable {α : Type}

@[simp] theorem tabGet_tabSet_same (d v : α) (i : Nat) (l : List (Nat × α)) : tabGet d (tabSet i v l) i = v := by
  induction l with
  | nil => simp [tabSet, tabGet]
  | cons x t ih =>
    obtain ⟨k, w⟩ := x
    simp only [tabSet]
    split
    · simp [tabGet]
    · split
      · simp [tabGet]
      · simp [tabGet, *]

theorem tabGet_tabSet_other (d v : α) (i j : Nat) (l : List (Nat × α)) (h : j ≠ i) : tabGet d (tabSet i v l) j = tabGet d l j := by
  induction l with
  | nil => simp [tabSet, tabGet, Ne.symm h]
  | cons x t ih =>
    obtain ⟨k, w⟩ := x
    simp only [tabSet]
    split
    · subst k; simp [tabGet, Ne.symm h]
    · split
      · simp [tabGet, Ne.symm h]
      · simp [tabGet, ih]

@[simp] theorem tabFind_tabSet_same (v : α) (i : Nat) (l : List (Nat × α)) : tabFind (tabSet i v l) i = some v := by
  induction l with
  | nil => simp [tabSet, tabFind]
  | cons x t ih =>
    obtain ⟨k, w⟩ := x
    simp only [tabSet]
    split
    · simp [tabFind]
    · split
      · simp [tabFind]
      · simp [tabFind, *]

theorem tabFind_tabSet_other (v : α) (i j : Nat) (l : List (Nat × α)) (h : j ≠ i) : tabFind (tabSet i v l) j = tabFind l j := by
  induction l with
  | nil => simp [tabSet, tabFind, Ne.symm h]
  | cons x t ih =>
    obtain ⟨k, w⟩ := x
    simp only [tabSet]
    split
    · subst k; simp [tabFind, Ne.symm h]
    · split
      · simp [tabFind, Ne.symm h]
      · simp [tabFind, ih]

@[simp] theorem tabFind_tabErase_same (i : Nat) (l : List (Nat × α)) : tabFind (tabErase i l) i = none := by
  induction l with
  | nil => rfl
  | cons x t ih =>
    obtain ⟨k, w⟩ := x
    by_cases h : k = i
    · simp only [tabErase] at ih ⊢
      simp [h, ih]
    · simp only [tabErase] at ih ⊢
      simp [h, tabFind, ih]

theorem tabFind_tabErase_other (i j : Nat) (l : List (Nat × α)) (h : j ≠ i) : tabFind (tabErase i l) j = tabFind l j := by
  induction l with
  | nil => rfl
  | cons x t ih =>
    obtain ⟨k, w⟩ := x
    by_cases hk : k = i
    · simp only [tabErase] at ih ⊢
      simp [hk, tabFind, ih, Ne.symm h]
    · simp only [tabErase] at ih ⊢
      simp [hk, tabFind, ih]

@[simp] theorem setAt_length (l : List α) (i : Nat) (v : α) : (setAt l i v).length = l.length := by
  induction l generalizing i with
  | nil => rfl
  | cons h t ih => cases i <;> simp [setAt, ih]

theorem getAt_setAt_same (d v : α) (l : List α) (i : Nat) (h : i < l.length) : getAt d (setAt l i v) i = v := by
  induction l generalizing i with
  | nil => simp at h
  | cons x t ih =>
    cases i with
    | zero => rfl
    | succ i => simpa [setAt, getAt] using ih i (by simpa using h)

theorem getAt_setAt_other (d v : α) (l : List α) (i j : Nat) (h : j ≠ i) : getAt d (setAt l i v) j = getAt d l j := by
  induction l generalizing i j with
  | nil => rfl
  | cons x t ih =>
    cases i with
    | zero =>
      cases j with
      | zero => exact absurd rfl h
      | succ j => rfl
    | succ i =>
      cases j with
      | zero => rfl
      | succ j => simpa [setAt, getAt] using ih i j (by simpa using h)

end

/-! ### Each numbered part read back -/

@[simp] theorem fnOf_setFn_same (n : Nat) (f : FnState) : fnOf (setFn s n f) n = f := tabGet_tabSet_same ..
theorem fnOf_setFn_other (n m : Nat) (f : FnState) (h : m ≠ n) : fnOf (setFn s n f) m = fnOf s m := tabGet_tabSet_other _ _ _ _ _ h
@[simp] theorem fnOf_modFn_same (n : Nat) (g : FnState → FnState) : fnOf (modFn s n g) n = g (fnOf s n) := tabGet_tabSet_same ..
theorem fnOf_modFn_other (n m : Nat) (g : FnState → FnState) (h : m ≠ n) : fnOf (modFn s n g) m = fnOf s m :=
  tabGet_tabSet_other _ _ _ _ _ h
@[simp] theorem tenOf_setTen_same (t : Nat) (r : TenantRec) : tenOf (setTen s t r) t = r := tabGet_tabSet_same ..
theorem tenOf_setTen_other (t u : Nat) (r : TenantRec) (h : u ≠ t) : tenOf (setTen s t r) u = tenOf s u := tabGet_tabSet_other _ _ _ _ _ h
@[simp] theorem keyOf_setKey_same (k : Nat) (x : KeySlot) : keyOf (setKey s k x) k = some x := tabFind_tabSet_same ..
theorem keyOf_setKey_other (k j : Nat) (x : KeySlot) (h : j ≠ k) : keyOf (setKey s k x) j = keyOf s j := tabFind_tabSet_other _ _ _ _ h
@[simp] theorem keyOf_clearKey_same (k : Nat) : keyOf (clearKey s k) k = none := tabFind_tabErase_same ..
theorem keyOf_clearKey_other (k j : Nat) (h : j ≠ k) : keyOf (clearKey s k) j = keyOf s j := tabFind_tabErase_other _ _ _ h
@[simp] theorem streamOf_setStream_same (i : Nat) (x : Stream) : streamOf (setStream s i x) i = x := tabGet_tabSet_same ..
theorem streamOf_setStream_other (i j : Nat) (x : Stream) (h : j ≠ i) : streamOf (setStream s i x) j = streamOf s j :=
  tabGet_tabSet_other _ _ _ _ _ h
@[simp] theorem slotOf_setSlot_same (h : Nat) (x : Slot) : slotOf (setSlot s h x) h = x := tabGet_tabSet_same ..
theorem slotOf_setSlot_other (h j : Nat) (x : Slot) (hne : j ≠ h) : slotOf (setSlot s h x) j = slotOf s j :=
  tabGet_tabSet_other _ _ _ _ _ hne
theorem queueOf_setQueue_same (q : Nat) (x : Queue) (h : q < s.core.queues.length) : queueOf (setQueue s q x) q = x :=
  getAt_setAt_same _ _ _ _ h
theorem queueOf_setQueue_other (q p : Nat) (x : Queue) (h : p ≠ q) : queueOf (setQueue s q x) p = queueOf s p :=
  getAt_setAt_other _ _ _ _ _ h
theorem hqOf_setHq_same (i : Nat) (x : List Nat) (h : i < s.core.hqs.length) : hqOf (setHq s i x) i = x := getAt_setAt_same _ _ _ _ h
theorem hqOf_setHq_other (i j : Nat) (x : List Nat) (h : j ≠ i) : hqOf (setHq s i x) j = hqOf s j := getAt_setAt_other _ _ _ _ _ h
theorem knotOf_setKnot_same (k v : Nat) (h : k < s.knot.vals.length) : knotOf (setKnot s k v) k = v := getAt_setAt_same _ _ _ _ h
theorem knotOf_setKnot_other (k j v : Nat) (h : j ≠ k) : knotOf (setKnot s k v) j = knotOf s j := getAt_setAt_other _ _ _ _ _ h
theorem portOf_setPort_same (p : Nat) (x : Port) (h : p < s.link.ports.length) : portOf (setPort s p x) p = x :=
  getAt_setAt_same _ _ _ _ h
theorem portOf_setPort_other (p q : Nat) (x : Port) (h : q ≠ p) : portOf (setPort s p x) q = portOf s q :=
  getAt_setAt_other _ _ _ _ _ h
theorem portOf_modPort_same (p : Nat) (g : Port → Port) (h : p < s.link.ports.length) : portOf (modPort s p g) p = g (portOf s p) :=
  getAt_setAt_same _ _ _ _ h
theorem portOf_modPort_other (p q : Nat) (g : Port → Port) (h : q ≠ p) : portOf (modPort s p g) q = portOf s q :=
  getAt_setAt_other _ _ _ _ _ h

/-! ### Queues and slots do not touch one another -/

@[simp] theorem queueOf_setSlot (h q : Nat) (x : Slot) : queueOf (setSlot s h x) q = queueOf s q := rfl
@[simp] theorem queueOf_setHq (i q : Nat) (x : List Nat) : queueOf (setHq s i x) q = queueOf s q := rfl
@[simp] theorem slotOf_setQueue (q h : Nat) (x : Queue) : slotOf (setQueue s q x) h = slotOf s h := rfl
@[simp] theorem slotOf_setHq (i h : Nat) (x : List Nat) : slotOf (setHq s i x) h = slotOf s h := rfl
@[simp] theorem hqOf_setQueue (q i : Nat) (x : Queue) : hqOf (setQueue s q x) i = hqOf s i := rfl
@[simp] theorem hqOf_setSlot (h i : Nat) (x : Slot) : hqOf (setSlot s h x) i = hqOf s i := rfl

end Sys2Proof.Machine
end

