-- ==== Sys2Proof/Laws/Memory.lean ====
section
/-! SUPPORT. The byte memories: every operation keeps the canonical form, and what a byte reads after each. -/

namespace Sys2Proof.Machine

/-! ### The canonical form (log 6) -/

theorem memWf_iff (z : Byte) (m : Mem) : memWf z m = true ↔ m.Pairwise (fun x y => x.1 < y.1) ∧ ∀ x ∈ m, x.2 ≠ z := by
  simp [memWf]

theorem memWf_filter (z : Byte) (m : Mem) (p : Host.Cell → Bool) (h : memWf z m = true) : memWf z (m.filter p) = true := by
  rw [memWf_iff] at h ⊢
  exact ⟨h.1.filter p, fun x hx => h.2 x (List.mem_filter.mp hx).1⟩

theorem memClear_wf (z : Byte) (m : Mem) (a n : Nat) (h : memWf z m = true) : memWf z (memClear m a n) = true :=
  memWf_filter z m _ h

/-- The entries of written bytes lie in their range. -/
theorem memCells_range (z : Byte) (a : Nat) (bs : List Byte) : ∀ x ∈ memCells z a bs, a ≤ x.1 ∧ x.1 < a + bs.length := by
  induction bs generalizing a with
  | nil => simp [memCells]
  | cons b t ih =>
    intro x hx
    simp only [memCells] at hx
    split at hx
    · have := ih (a + 1) x hx
      simp only [List.length_cons]; omega
    · rcases List.mem_cons.mp hx with rfl | hx
      · simp
      · have := ih (a + 1) x hx
        simp only [List.length_cons]; omega

theorem memCells_wf (z : Byte) (a : Nat) (bs : List Byte) : memWf z (memCells z a bs) = true := by
  induction bs generalizing a with
  | nil => rfl
  | cons b t ih =>
    simp only [memCells]
    split
    · exact ih (a + 1)
    · next hb =>
      have ih' := (memWf_iff z _).mp (ih (a + 1))
      refine (memWf_iff z _).mpr ⟨List.pairwise_cons.mpr ⟨fun x hx => ?_, ih'.1⟩, fun x hx => ?_⟩
      · have := (memCells_range z (a + 1) t x hx).1
        omega
      · rcases List.mem_cons.mp hx with rfl | hx
        · exact hb
        · exact ih'.2 x hx

/-- Canonical entries put in their own range keep the form. -/
theorem memPut_wf (z : Byte) (m cells : Mem) (dst n : Nat) (h : memWf z m = true) (hc : memWf z cells = true)
    (hr : ∀ x ∈ cells, dst ≤ x.1 ∧ x.1 < dst + n) : memWf z (memPut m dst n cells) = true := by
  rw [memWf_iff] at h hc ⊢
  refine ⟨?_, ?_⟩
  · simp only [memPut, List.append_assoc]
    refine List.pairwise_append.mpr ⟨h.1.filter _, List.pairwise_append.mpr ⟨hc.1, h.1.filter _, ?_⟩, ?_⟩
    · intro x hx y hy
      have h1 := hr x hx
      have h2 := (List.mem_filter.mp hy).2
      simp only [decide_eq_true_eq] at h2
      omega
    · intro x hx y hy
      have h1 := (List.mem_filter.mp hx).2
      simp only [decide_eq_true_eq] at h1
      rcases List.mem_append.mp hy with hy | hy
      · have := hr y hy; omega
      · have h2 := (List.mem_filter.mp hy).2
        simp only [decide_eq_true_eq] at h2
        omega
  · intro x hx
    simp only [memPut, List.mem_append] at hx
    rcases hx with (hx | hx) | hx
    · exact h.2 x (List.mem_filter.mp hx).1
    · exact hc.2 x hx
    · exact h.2 x (List.mem_filter.mp hx).1

theorem memWrite_eq (z : Byte) (m : Mem) (a : Nat) (bs : List Byte) : memWrite z m a bs = memPut m a bs.length (memCells z a bs) := rfl

theorem memWrite_wf (z : Byte) (m : Mem) (a : Nat) (bs : List Byte) (h : memWf z m = true) : memWf z (memWrite z m a bs) = true :=
  memPut_wf z m _ a bs.length h (memCells_wf z a bs) (memCells_range z a bs)

theorem memSlice_range (m : Mem) (src n dst : Nat) : ∀ x ∈ memSlice m src n dst, dst ≤ x.1 ∧ x.1 < dst + n := by
  intro x hx
  simp only [memSlice, List.mem_map, List.mem_filter, Bool.and_eq_true, decide_eq_true_eq] at hx
  obtain ⟨y, ⟨_, h1, h2⟩, rfl⟩ := hx
  simp only; omega

theorem memSlice_wf (z : Byte) (m : Mem) (src n dst : Nat) (h : memWf z m = true) : memWf z (memSlice m src n dst) = true := by
  rw [memWf_iff] at h ⊢
  refine ⟨?_, ?_⟩
  · refine List.pairwise_map.mpr ((h.1.filter _).imp_of_mem ?_)
    intro x y hx hy hxy
    have hx := (List.mem_filter.mp hx).2
    simp only [Bool.and_eq_true, decide_eq_true_eq] at hx
    simp only; omega
  · intro x hx
    simp only [memSlice, List.mem_map] at hx
    obtain ⟨y, hy, rfl⟩ := hx
    exact h.2 y (List.mem_filter.mp hy).1

/-- A range copied from one canonical memory into another keeps the form. -/
theorem memCopy_wf (z : Byte) (m k : Mem) (src dst n : Nat) (h : memWf z m = true) (hk : memWf z k = true) :
    memWf z (memPut m dst n (memSlice k src n dst)) = true :=
  memPut_wf z m _ dst n h (memSlice_wf z k src n dst hk) (memSlice_range k src n dst)

/-! ### Reading after each operation -/

theorem memRead_append (z : Byte) (m k : Mem) (a : Nat) (h : ∀ x ∈ m, x.1 ≠ a) : memRead z (m ++ k) a = memRead z k a := by
  induction m with
  | nil => rfl
  | cons x t ih =>
    obtain ⟨b, v⟩ := x
    have hb : b ≠ a := h (b, v) List.mem_cons_self
    simp only [List.cons_append, memRead, hb, if_false]
    exact ih (fun y hy => h y (List.mem_cons_of_mem _ hy))

theorem memRead_none (z : Byte) (m : Mem) (a : Nat) (h : ∀ x ∈ m, x.1 ≠ a) : memRead z m a = z := by
  simpa [memRead] using memRead_append z m [] a h

theorem memRead_filter (z : Byte) (m : Mem) (p : Nat → Bool) (a : Nat) (h : p a = true) :
    memRead z (m.filter (fun x => p x.1)) a = memRead z m a := by
  induction m with
  | nil => rfl
  | cons x t ih =>
    obtain ⟨b, v⟩ := x
    by_cases hb : b = a
    · subst hb; simp [memRead, h]
    · by_cases hp : p b = true
      · simp [memRead, hp, hb, ih]
      · simp only [Bool.not_eq_true] at hp
        simp [memRead, hp, hb, ih]

theorem memRead_memClear_in (z : Byte) (m : Mem) (a n b : Nat) (h1 : a ≤ b) (h2 : b < a + n) : memRead z (memClear m a n) b = z := by
  refine memRead_none z _ b (fun x hx => ?_)
  have := (List.mem_filter.mp hx).2
  simp only [Bool.or_eq_true, decide_eq_true_eq] at this
  omega

theorem memRead_memClear_out (z : Byte) (m : Mem) (a n b : Nat) (h : b < a ∨ a + n ≤ b) :
    memRead z (memClear m a n) b = memRead z m b := by
  refine memRead_filter z m (fun k => decide (k < a) || decide (a + n ≤ k)) b ?_
  simpa using h

theorem memRead_memPut_out (z : Byte) (m cells : Mem) (dst n b : Nat) (h : b < dst ∨ dst + n ≤ b)
    (hr : ∀ x ∈ cells, dst ≤ x.1 ∧ x.1 < dst + n) : memRead z (memPut m dst n cells) b = memRead z m b := by
  have key : memRead z (memPut m dst n cells) b = memRead z (m.filter (fun x => decide (x.1 < dst)) ++ m.filter (fun x => decide (dst + n ≤ x.1))) b := by
    have hc : ∀ x ∈ cells, x.1 ≠ b := fun x hx => by have := hr x hx; omega
    unfold memPut
    generalize m.filter (fun x => decide (x.1 < dst)) = u
    induction u with
    | nil => exact memRead_append z cells _ b hc
    | cons x t ih =>
      obtain ⟨k, v⟩ := x
      simp only [List.cons_append, memRead, ih]
  rw [key]
  clear key hr
  rcases h with h | h
  · induction m with
    | nil => rfl
    | cons x t ih =>
      obtain ⟨k, v⟩ := x
      by_cases hk : k = b
      · subst hk; simp [memRead, h]
      · by_cases h1 : k < dst
        · have h2 : ¬ dst + n ≤ k := by omega
          simp [memRead, h1, h2, hk, ih]
        · have : memRead z (t.filter (fun x => decide (x.1 < dst)) ++ (k, v) :: t.filter (fun x => decide (dst + n ≤ x.1))) b =
              memRead z (t.filter (fun x => decide (x.1 < dst)) ++ t.filter (fun x => decide (dst + n ≤ x.1))) b := by
            generalize t.filter (fun x => decide (x.1 < dst)) = u
            induction u with
            | nil => simp [memRead, hk]
            | cons y w ihw => obtain ⟨c, d⟩ := y; simp only [List.cons_append, memRead, ihw]
          by_cases h2 : dst + n ≤ k
          · simp [memRead, h1, h2, hk, this, ih]
          · simp [memRead, h1, h2, hk, ih]
  · rw [memRead_append z _ _ b (fun x hx => by
      have := (List.mem_filter.mp hx).2
      simp only [decide_eq_true_eq] at this
      omega)]
    exact memRead_filter z m (fun k => decide (dst + n ≤ k)) b (by simpa using h)

theorem memRead_memPut_in (z : Byte) (m cells : Mem) (dst n b : Nat) (h1 : dst ≤ b) (h2 : b < dst + n) :
    memRead z (memPut m dst n cells) b = memRead z cells b := by
  unfold memPut
  rw [List.append_assoc, memRead_append z _ _ b (fun x hx => by
    have := (List.mem_filter.mp hx).2
    simp only [decide_eq_true_eq] at this
    omega)]
  induction cells with
  | nil =>
    refine memRead_none z _ b (fun x hx => ?_)
    have := (List.mem_filter.mp hx).2
    simp only [decide_eq_true_eq] at this
    omega
  | cons x t ih => obtain ⟨k, v⟩ := x; simp only [List.cons_append, memRead, ih]

theorem memRead_memCells (z : Byte) (a : Nat) (bs : List Byte) (i : Nat) : memRead z (memCells z a bs) (a + i) = bs.getD i z := by
  induction bs generalizing a i with
  | nil => rfl
  | cons b t ih =>
    cases i with
    | zero =>
      simp only [memCells]
      split
      · next hb =>
        subst hb
        refine memRead_none b _ _ (fun x hx => ?_)
        have := (memCells_range b (a + 1) t x hx).1
        omega
      · simp [memRead]
    | succ i =>
      have e : a + (i + 1) = a + 1 + i := by omega
      simp only [memCells]
      split
      · rw [e, ih]; rfl
      · rw [memRead, if_neg (by omega), e, ih]; rfl

/-- A byte written is read back. -/
theorem memRead_memWrite_in (z : Byte) (m : Mem) (a i : Nat) (bs : List Byte) (h : i < bs.length) :
    memRead z (memWrite z m a bs) (a + i) = bs.getD i z := by
  rw [memWrite_eq, memRead_memPut_in z m _ a bs.length (a + i) (by omega) (by omega)]
  exact memRead_memCells z a bs i

/-- A byte outside what is written is left alone. -/
theorem memRead_memWrite_out (z : Byte) (m : Mem) (a b : Nat) (bs : List Byte) (h : b < a ∨ a + bs.length ≤ b) :
    memRead z (memWrite z m a bs) b = memRead z m b :=
  memRead_memPut_out z m _ a bs.length b h (memCells_range z a bs)

theorem memRead_memSlice (z : Byte) (m : Mem) (src n dst i : Nat) (h : i < n) :
    memRead z (memSlice m src n dst) (dst + i) = memRead z m (src + i) := by
  induction m with
  | nil => rfl
  | cons x t ih =>
    obtain ⟨k, v⟩ := x
    simp only [memSlice] at ih ⊢
    by_cases hk : k = src + i
    · subst hk
      have h1 : src ≤ src + i := by omega
      have h2 : src + i < src + n := by omega
      have h3 : src + i - src + dst = dst + i := by omega
      rw [List.filter_cons_of_pos (by simp [h]), List.map_cons]
      simp only [memRead, h3, if_true]
    · by_cases hr : src ≤ k ∧ k < src + n
      · have h3 : ¬ k - src + dst = dst + i := by omega
        rw [List.filter_cons_of_pos (by simp [hr.1, hr.2]), List.map_cons]
        simp only [memRead, h3, hk, if_false, ih]
      · have h4 : (decide (src ≤ k) && decide (k < src + n)) = false := by
          rw [Bool.eq_false_iff]; simpa using hr
        rw [List.filter_cons_of_neg (by simp [h4])]
        simp only [memRead, hk, if_false, ih]

/-- A byte of a copied range reads as its source did. -/
theorem memRead_memCopy_in (z : Byte) (m k : Mem) (src dst n i : Nat) (h : i < n) :
    memRead z (memPut m dst n (memSlice k src n dst)) (dst + i) = memRead z k (src + i) := by
  rw [memRead_memPut_in z m _ dst n (dst + i) (by omega) (by omega), memRead_memSlice z k src n dst i h]

theorem memRead_memCopy_out (z : Byte) (m k : Mem) (src dst n b : Nat) (h : b < dst ∨ dst + n ≤ b) :
    memRead z (memPut m dst n (memSlice k src n dst)) b = memRead z m b :=
  memRead_memPut_out z m _ dst n b h (memSlice_range k src n dst)

end Sys2Proof.Machine
end

