-- ==== Sys2Proof/Laws/Ops.lean ====
section
/-! SUPPORT. What each shared operation leaves as it was: one frame for each, to be cited in place of its definition. -/

namespace Sys2Proof.Machine

/-! ### Frames compose -/

theorem unchanged_refl (l : List Part) (s : State) : Unchanged l s s := by
  intro p _
  cases p <;> simp [samePart]

theorem samePart_trans {s t u : State} {p : Part} (h : samePart s t p) (k : samePart t u p) : samePart s u p := by
  cases p <;> simp only [samePart] at h k ⊢ <;> first
    | exact k.trans h
    | exact fun n => (k n).trans (h n)
    | (rw [k, h])
    | (obtain ⟨h1, h2⟩ := h; obtain ⟨k1, k2⟩ := k; exact ⟨k1.trans h1, k2.trans h2⟩)
    | (obtain ⟨h1, h2, h3, h4⟩ := h; obtain ⟨k1, k2, k3, k4⟩ := k
       exact ⟨k1.trans h1, k2.trans h2, k3.trans h3, k4.trans h4⟩)
    | (obtain ⟨h1, h2, h3, h4, h5, h6⟩ := h; obtain ⟨k1, k2, k3, k4, k5, k6⟩ := k
       exact ⟨k1.trans h1, k2.trans h2, k3.trans h3, k4.trans h4, k5.trans h5, k6.trans h6⟩)

theorem unchanged_trans {l : List Part} {s t u : State} (h : Unchanged l s t) (k : Unchanged l t u) : Unchanged l s u :=
  fun p hp => samePart_trans (h p hp) (k p hp)

theorem unchanged_mono {l m : List Part} {s t : State} (h : Unchanged l s t) (sub : ∀ p ∈ l, p ∈ m) : Unchanged m s t :=
  fun p hp => h p (fun hl => hp (sub p hl))

theorem unchanged_ite {l : List Part} {s t u : State} {c : Prop} [Decidable c] (h : Unchanged l s t) (k : Unchanged l s u) :
    Unchanged l s (if c then t else u) := by
  split
  · exact h
  · exact k

theorem unchanged_foldl {α : Type} {l : List Part} {f : State → α → State} (h : ∀ s x, Unchanged l s (f s x)) (xs : List α) (s : State) :
    Unchanged l s (xs.foldl f s) := by
  induction xs generalizing s with
  | nil => exact unchanged_refl l s
  | cons x xs ih => exact unchanged_trans (h s x) (ih (f s x))

/-! ### Functions and rings -/

/-- An update of a function that keeps what software sets changes the host port's functions alone. -/
theorem setFn_frame (s : State) (n : Nat) (f : FnState) (h : fnSet f = fnSet (fnOf s n)) : Unchanged [.host] s (setFn s n f) := by
  intro p hp
  cases p <;> first | rfl | exact ⟨rfl, rfl⟩ | exact ⟨rfl, rfl, rfl, rfl⟩ | exact ⟨rfl, rfl, rfl, rfl, rfl, rfl⟩ | skip
  · exact absurd (by decide) hp
  · intro m
    by_cases e : m = n
    · subst e; simpa using h
    · show fnSet (fnOf (setFn s n f) m) = _
      rw [fnOf_setFn_other s n m f e]

theorem modFn_frame (s : State) (n : Nat) (g : FnState → FnState) (h : fnSet (g (fnOf s n)) = fnSet (fnOf s n)) :
    Unchanged [.host] s (modFn s n g) := setFn_frame s n _ h

theorem map_setAt {α β : Type} (f : α → β) (d : α) (l : List α) (r : Nat) (x : α) (h : f x = f (getAt d l r)) :
    (setAt l r x).map f = l.map f := by
  induction l generalizing r with
  | nil => rfl
  | cons a l ih =>
    cases r with
    | zero => simpa [setAt, getAt] using h
    | succ r => simpa [setAt, getAt] using ih r (by simpa [getAt] using h)

/-- An update of a ring that keeps what software sets of it. -/
theorem setRing_frame (s : State) (n r : Nat) (x : Ring) (h : ringSet x = ringSet (ringOf s n r)) : Unchanged [.host] s (setRing s n r x) := by
  apply modFn_frame
  have e := map_setAt ringSet Ring.reset (fnOf s n).rings r x h
  simp [fnSet, e]

theorem emit_frame (s : State) (o : Out) : Unchanged [.out] s (emit s o) := by
  intro p hp
  cases p <;> first | rfl | exact ⟨rfl, rfl⟩ | exact ⟨rfl, rfl, rfl, rfl⟩ | exact ⟨rfl, rfl, rfl, rfl, rfl, rfl⟩ | exact fun _ => rfl | exact absurd (by decide) hp

/-- An update of the reads and tags of the host port. -/
theorem setReads_frame (s : State) (reads : List (Nat × ReadOwner)) (readWait : List ReadOwner) (quarantine : List (Nat × Bool)) (exhausted : Bool) :
    Unchanged [.host] s (setHost s { s.host with reads := reads, readWait := readWait, quarantine := quarantine, exhausted := exhausted }) := by
  intro p hp
  cases p <;> first | rfl | exact ⟨rfl, rfl⟩ | exact ⟨rfl, rfl, rfl, rfl⟩ | exact ⟨rfl, rfl, rfl, rfl, rfl, rfl⟩ | exact fun _ => rfl | exact absurd (by decide) hp

/-! ### MSI-X, entries and the log (R84 to R86, R330 to R332) -/

theorem raiseMsix_frame (s : State) (fn v : Nat) : Unchanged [.host, .out] s (raiseMsix s fn v) := by
  unfold raiseMsix
  apply unchanged_ite
  · exact unchanged_mono (emit_frame s _) (by decide)
  · exact unchanged_mono (modFn_frame s fn _ rfl) (by decide)

theorem writeEntry_frame (s : State) (fn r bits : Nat) : Unchanged [.host, .out] s (writeEntry s fn r bits) := by
  have h := setRing_frame s fn r { ringOf s fn r with devIdx := (ringOf s fn r).devIdx + 1 } rfl
  exact unchanged_trans (unchanged_mono h (by decide)) (unchanged_mono (m := [.host, .out]) (emit_frame _ _) (by decide))

theorem logPut_frame (s : State) (posted fault : Bool) (e : Ev) : Unchanged [.err] s (logPut s posted fault e) := by
  intro p hp
  unfold logPut
  dsimp only
  generalize (if s.err.second = s.time.logNs / 1000000000 then s.err.inSecond else 0) = n
  split <;> cases p <;> first
    | rfl | exact ⟨rfl, rfl⟩ | exact ⟨rfl, rfl, rfl, rfl⟩ | exact ⟨rfl, rfl, rfl, rfl, rfl, rfl⟩ | exact fun _ => rfl | exact absurd (by decide) hp

/-- The parts that an event leaves alone: all but the host port, the logs and what is sent. -/
abbrev evParts : List Part := [.host, .err, .out]

/-- An update of the event log's own fields. -/
theorem lossSince_frame (s : State) (n : Nat) : Unchanged [.err] s { s with err := { s.err with lossSince := n } } := by
  intro p hp
  cases p <;> first | rfl | exact ⟨rfl, rfl⟩ | exact ⟨rfl, rfl, rfl, rfl⟩ | exact ⟨rfl, rfl, rfl, rfl, rfl, rfl⟩ | exact fun _ => rfl | exact absurd (by decide) hp

theorem eventWrite_frame (s : State) (fn : Nat) (e : Ev) : Unchanged evParts s (eventWrite s fn e).2 := by
  unfold eventWrite
  split
  · exact unchanged_trans (unchanged_mono (writeEntry_frame _ _ _ _) (by decide)) (unchanged_mono (raiseMsix_frame _ _ _) (by decide))
  · exact unchanged_mono (modFn_frame _ _ _ rfl) (by decide)

theorem lossWrite_frame (s : State) : Unchanged evParts s (lossWrite s) := by
  unfold lossWrite
  split
  · exact unchanged_refl _ s
  · refine unchanged_trans (unchanged_mono (lossSince_frame s 0) (by decide)) ?_
    refine unchanged_trans ?_ (unchanged_mono (logPut_frame _ _ _ _) (by decide))
    split
    · exact eventWrite_frame _ _ _
    · exact unchanged_refl _ _

theorem writeEventsLost_frame (s : State) (fn : Nat) : Unchanged evParts s (writeEventsLost s fn) := by
  have h (e : Ev) : Unchanged evParts s
      (raiseMsix (modFn (writeEntry s fn 2 (eventBits s e)) fn (fun f => { f with lostEvents := 0 })) fn (ringVector 2)) :=
    unchanged_trans (unchanged_mono (writeEntry_frame s fn 2 _) (by decide))
      (unchanged_trans (unchanged_mono (modFn_frame _ fn (fun f => { f with lostEvents := 0 }) rfl) (by decide))
        (unchanged_mono (raiseMsix_frame _ _ _) (by decide)))
  unfold writeEventsLost
  exact unchanged_ite (unchanged_trans (h _) (unchanged_trans (unchanged_mono (logPut_frame _ _ _ _) (by decide)) (lossWrite_frame _))) (h _)

theorem lostFirst_frame (s : State) (fn : Nat) : Unchanged evParts s (lostFirst s fn) :=
  unchanged_ite (writeEventsLost_frame s fn) (unchanged_refl _ s)

theorem ringPut_frame (s : State) (fn : Nat) (e : Ev) : Unchanged evParts s (ringPut s fn e).2 := by
  unfold ringPut
  split
  · exact unchanged_refl _ s
  · exact unchanged_trans (lostFirst_frame s fn) (eventWrite_frame _ _ _)

theorem lossFirst_frame (s : State) : Unchanged evParts s (lossFirst s) :=
  unchanged_ite (unchanged_refl _ s) (unchanged_trans (lostFirst_frame s 0) (lossWrite_frame _))

theorem logOnly_frame (s : State) (e : Ev) : Unchanged evParts s (logOnly s e) :=
  unchanged_trans (lossFirst_frame s) (unchanged_mono (logPut_frame _ _ _ _) (by decide))

theorem post_frame (s : State) (fn : Nat) (e : Ev) : Unchanged evParts s (post s fn e) := by
  unfold post
  split
  · dsimp only
    exact unchanged_trans (lossFirst_frame s) (unchanged_trans (ringPut_frame _ _ _) (unchanged_mono (logPut_frame _ _ _ _) (by decide)))
  · exact ringPut_frame s fn e

theorem postT0_frame (s : State) (code scope detail : Nat) : Unchanged evParts s (postT0 s code scope detail) := post_frame s 0 _

theorem note_frame (s : State) (kind who : Nat) : Unchanged evParts s (note s kind who) := logOnly_frame s _

theorem regLog_frame (s : State) (code fn off : Nat) (write : Bool) : Unchanged evParts s (regLog s code fn off write) := logOnly_frame s _

/-! ### Reads, fetches and stopped rings (R80, R82, R89) -/

theorem issueRead_frame (s : State) (t : Nat) (o : ReadOwner) : Unchanged [.host, .out] s (issueRead s t o) :=
  unchanged_trans (unchanged_mono (setReads_frame s _ s.host.readWait s.host.quarantine s.host.exhausted) (by decide))
    (unchanged_mono (emit_frame _ _) (by decide))

theorem noteExhausted_frame (s : State) : Unchanged evParts s (noteExhausted s) :=
  unchanged_ite (unchanged_refl _ s)
    (unchanged_trans (unchanged_mono (setReads_frame s s.host.reads s.host.readWait s.host.quarantine true) (by decide)) (note_frame _ 3 0))

theorem startRead_frame (s : State) (o : ReadOwner) : Unchanged evParts s (startRead s o) := by
  unfold startRead
  split
  · exact unchanged_mono (issueRead_frame s _ o) (by decide)
  · exact unchanged_trans (unchanged_mono (setReads_frame s s.host.reads (s.host.readWait ++ [o]) s.host.quarantine s.host.exhausted) (by decide))
      (noteExhausted_frame _)

theorem startFetch_frame (s : State) (fn r : Nat) : Unchanged evParts s (startFetch s fn r) := by
  unfold startFetch
  split
  · have h := unchanged_mono (m := evParts) (setRing_frame s fn r { ringOf s fn r with fetching := true } rfl) (by decide)
    exact unchanged_trans h (startRead_frame _ _)
  · exact unchanged_refl _ s

theorem nextRead_frame (s : State) : Unchanged [.host, .out] s (nextRead s) := by
  unfold nextRead
  split
  · exact unchanged_trans (unchanged_mono (setReads_frame s s.host.reads _ s.host.quarantine s.host.exhausted) (by decide)) (issueRead_frame _ _ _)
  · exact unchanged_refl _ s

theorem endRead_frame (s : State) (o : ReadOwner) : Unchanged [.host, .out] s (endRead s o) := by
  unfold endRead
  split
  · exact unchanged_trans (unchanged_mono (setReads_frame s _ s.host.readWait s.host.quarantine s.host.exhausted) (by decide)) (nextRead_frame _)
  · exact unchanged_refl _ s

theorem dropReads_frame (s : State) (p : ReadOwner → Bool) : Unchanged [.host, .out] s (dropReads s p) :=
  unchanged_trans (unchanged_mono (setReads_frame s _ _ s.host.quarantine s.host.exhausted) (by decide))
    (unchanged_foldl (fun s _ => nextRead_frame s) _ _)

theorem stopRing_frame (s : State) (fn r reason : Nat) : Unchanged evParts s (stopRing s fn r reason) := by
  unfold stopRing
  have h := unchanged_mono (m := evParts) (setRing_frame s fn r { ringOf s fn r with stopped := true } rfl) (by decide)
  dsimp only
  split
  · exact unchanged_trans h (post_frame _ _ _)
  · have k := unchanged_trans h (unchanged_mono (m := evParts)
      (modFn_frame _ fn (fun f => { f with heldStops := tabSet r reason f.heldStops }) rfl) (by decide))
    split
    · exact unchanged_trans k (logOnly_frame _ _)
    · exact k

theorem flushStops_frame (s : State) (fn : Nat) : Unchanged evParts s (flushStops s fn) := by
  unfold flushStops
  exact unchanged_trans (unchanged_mono (m := evParts) (modFn_frame s fn (fun f => { f with heldStops := [] }) rfl) (by decide))
    (unchanged_foldl (fun s x => ringPut_frame s fn _) _ _)

/-! ### Results (R81, R85) -/

theorem writeRecords_frame (s : State) (r : Result) (es : List (Nat × List Byte)) : Unchanged [.host, .out] s (writeRecords s r es) := by
  induction es generalizing s with
  | nil => exact unchanged_refl _ s
  | cons e t ih => exact unchanged_trans (writeEntry_frame s r.fn 1 _) (ih _)

theorem putResult_frame (s : State) (r : Result) : Unchanged [.host, .out] s (putResult s r).2 := by
  unfold putResult
  dsimp only
  split
  · exact unchanged_refl _ s
  · split
    · exact unchanged_mono (modFn_frame s r.fn _ rfl) (by decide)
    · exact writeRecords_frame s r _

theorem resultNow_frame (s : State) (r : Result) : Unchanged [.host, .out] s (resultNow s r) := by
  unfold resultNow
  dsimp only
  split
  · exact unchanged_trans (putResult_frame s r) (raiseMsix_frame _ _ _)
  · exact putResult_frame s r

/-! ### Chip-scope faults (R188, R325, R335) -/

theorem saveDump_frame (s : State) (b : List Byte) : Unchanged [.knot] s (saveDump s b) := by
  intro p hp
  unfold saveDump
  split <;> cases p <;> first
    | rfl | exact ⟨rfl, rfl⟩ | exact ⟨rfl, rfl, rfl, rfl⟩ | exact ⟨rfl, rfl, rfl, rfl, rfl, rfl⟩ | exact fun _ => rfl | exact absurd (by decide) hp

theorem saveSummary_frame (s : State) (scope kind tick : Nat) (dump : List Byte) : Unchanged [.err, .ras] s (saveSummary s scope kind tick dump) := by
  intro p hp
  unfold saveSummary
  split <;> cases p <;> first
    | rfl | exact ⟨rfl, rfl⟩ | exact ⟨rfl, rfl, rfl, rfl⟩ | exact ⟨rfl, rfl, rfl, rfl, rfl, rfl⟩ | exact fun _ => rfl | exact absurd (by decide) hp

/-! ### The core -/

/-- An update of the core that keeps its plan, its halt and its handle queues. -/
theorem setQueue_frame (s : State) (q : Nat) (x : Queue) : Unchanged [.core] s (setQueue s q x) := by
  intro p hp
  cases p <;> first | rfl | exact ⟨rfl, rfl⟩ | exact ⟨rfl, rfl, rfl, rfl⟩ | exact ⟨rfl, rfl, rfl, rfl, rfl, rfl⟩ | exact fun _ => rfl | exact absurd (by decide) hp

theorem setSlot_frame (s : State) (h : Nat) (x : Slot) : Unchanged [.core] s (setSlot s h x) := by
  intro p hp
  cases p <;> first | rfl | exact ⟨rfl, rfl⟩ | exact ⟨rfl, rfl, rfl, rfl⟩ | exact ⟨rfl, rfl, rfl, rfl, rfl, rfl⟩ | exact fun _ => rfl | exact absurd (by decide) hp

theorem setKnot_frame (s : State) (k v : Nat) : Unchanged [.knot] s (setKnot s k v) := by
  intro p hp
  cases p <;> first | rfl | exact ⟨rfl, rfl⟩ | exact ⟨rfl, rfl, rfl, rfl⟩ | exact ⟨rfl, rfl, rfl, rfl, rfl, rfl⟩ | exact fun _ => rfl | exact absurd (by decide) hp

theorem advanceQueue_frame (s : State) (q : Nat) : Unchanged [.core] s (advanceQueue s q) := setQueue_frame s q _

theorem takeWait_frame (s : State) (k value : Nat) : Unchanged [.knot] s (takeWait s k value) :=
  unchanged_ite (unchanged_refl _ s) (setKnot_frame s k _)

theorem wakeQueue_frame (k : Nat) (s : State) (q : Nat) : Unchanged [.knot, .core] s (wakeQueue k s q) := by
  unfold wakeQueue
  dsimp only
  split
  · split
    · exact unchanged_trans (unchanged_mono (takeWait_frame s k _) (by decide)) (unchanged_mono (advanceQueue_frame _ q) (by decide))
    · exact unchanged_refl _ s
  · exact unchanged_refl _ s

/-- Waking the queues of a knot changes knots and queues only. -/
theorem wake_frame (s : State) (k : Nat) : Unchanged [.knot, .core] s (wake s k) := unchanged_foldl (wakeQueue_frame k) _ s

/-- A signal to an epoch knot. -/
theorem addKnot_epoch (s : State) (k n source : Nat) (h : k < 32) : Unchanged [.knot, .core] s (addKnot s k n source) := by
  unfold addKnot
  rw [if_pos h]
  exact unchanged_trans (unchanged_mono (setKnot_frame s k _) (by decide)) (wake_frame _ k)

/-- A release of a slot that is held. -/
theorem releaseSlot_held (s : State) (q i h : Nat) (x : (slotOf s h).count ≠ 0) : Unchanged [.core] s (releaseSlot s q i h) := by
  unfold releaseSlot
  dsimp only
  rw [if_neg x]
  exact setSlot_frame s h _

/-- A handle pushed into a queue with room. -/
theorem pushHandle_room (s : State) (q i hq h : Nat) (x : (hqOf s hq).length < 256) : pushHandle s q i hq h = setHq s hq (hqOf s hq ++ [h]) := by
  unfold pushHandle
  rw [if_neg (by omega)]

theorem endFence_frame (s : State) (q : Nat) : Unchanged [.core] s (endFence s q) := unchanged_ite (advanceQueue_frame s q) (unchanged_refl _ s)

/-- An admin descriptor that goes on. -/
theorem adminWait_frame (s : State) (d : Desc) (w : AdminWork) : Unchanged [.admin] s (adminWait s d w) := by
  intro p hp
  cases p <;> first | rfl | exact ⟨rfl, rfl⟩ | exact ⟨rfl, rfl, rfl, rfl⟩ | exact ⟨rfl, rfl, rfl, rfl, rfl, rfl⟩ | exact fun _ => rfl | exact absurd (by decide) hp

end Sys2Proof.Machine
end

