-- ==== Sys2Proof/WellFormed.lean ====
section
/-! DEFINITION. Which commands are well formed: numbers within the ranges the spec gives them, and units, lines and blocks of
their length. A meaning is total and does nothing on a number that names nothing. -/

namespace Sys2Proof

/-- A unit: a 256-byte head; a chunk adds 16 or 17 flits of payload and a 256-byte tail, a control message neither (R232). -/
def unitWf (u : RawUnit) : Bool :=
  decide (u.head.length = 256) && (decide (u.tail.length = 256) || (u.tail.isEmpty && u.payload.isEmpty))

/-- The data of a snoop response: one line, or none. -/
def lineWf (data : Option (List Byte)) : Bool :=
  match data with
  | some b => decide (b.length = 64)
  | none => true

/-- An endpoint ID and a terminus ID are one byte, a PLDM type six bits. -/
def mctpWf (c : MctpCommand) : Bool :=
  match c with
  | .setEndpointId eid => decide (eid < 256)
  | .getEndpointId => true
  | .getVersion => true
  | .getMessageTypes => true
  | .getUuid => true
  | .pldm c =>
    match c with
    | .setTid tid => decide (tid < 256)
    | .getTid => true
    | .getVersion type => decide (type < 64)
    | .getTypes => true
    | .getCommands type => decide (type < 64)

/-- A window of registers: BAR0 of the PF (0), of a VF (1 to 255) and of function 0 of LD1 to LD15 (257 to 271), JTAG (512), the service port (513), BAR2/3 of a function (1024 to 1279), BAR4/5 of the PF (2048) (Table 4-2, log 18). -/
def barFn (fn : Nat) : Bool :=
  decide (fn < 256) || (decide (257 ≤ fn) && decide (fn ≤ 271)) || [512, 513, 2048].contains fn || (decide (1024 ≤ fn) && decide (fn < 1280))

/-- A command whose operands lie in their ranges. -/
def Instr.wellFormed (i : Instr) : Bool :=
  match i with
  | .coldReset _ => true
  | .aonRstNRelease bootSrc svcAddr _ => decide (bootSrc < 4) && decide (svcAddr < 8)
  | .mainEn => true
  | .mainPgTimeout => true
  | .mainPg => true
  | .clockCheck _ _ _ _ => true
  | .hbmTrained _ => true
  | .mainSupplyLoss => true
  | .mainEnRequest => true
  | .stewardStart => true
  | .portTrainingStart port => decide (port < 8)
  | .portTrained port => decide (port < 8)
  | .portTrainingTimeout port => decide (port < 8)
  | .hello port => decide (port < 8)
  | .helloAck port u => decide (port < 8) && unitWf u
  | .ready => true
  | .bootTimeout => true
  | .windowOpen nandGib => decide (nandGib ≤ 4096)
  | .bootHealthy _ => true
  | .bootHealthTimeout => true
  | .perstNRelease _ => true
  | .linkTriggeredReset _ => true
  | .hostLinkUp => true
  | .configRequest ld fn _ => decide (ld < 16) && decide (fn < 256)
  | .functionLevelReset => true
  | .perVfReset _ => true
  | .flrComplete _ => true
  | .ldReset ld => decide (ld < 16)
  | .temperatureWarning _ _ => true
  | .thermtrip => true
  | .pwrBrakeN _ => true
  | .narrowAccess fn _ width _ => barFn fn && [8, 16, 32, 64].contains width
  | .lowWordRead fn _ => barFn fn
  | .highWordRead fn _ => barFn fn
  | .registerWrite fn _ _ => barFn fn
  | .ringEnable fn ring log2 => decide (fn < 256) && decide (ring < 4) && decide (log2 < 32)
  | .ringDisable fn ring log2 => decide (fn < 256) && decide (ring < 4) && decide (log2 < 32)
  | .hold _ => true
  | .knotDbgSet knot value => decide (knot < 48) && decide (value < 65536)
  | .knotDbgAdd knot value => decide (knot < 48) && decide (value < 65536)
  | .dbgPoolDataRead => true
  | .dvdbg => true
  | .doorbellInvalidation fn _ => decide (fn < 256)
  | .doorbellPoll fn _ => decide (fn < 256)
  | .frame fn _ => decide (fn < 256)
  | .openStream fn _ => decide (fn < 256)
  | .bind fn _ => decide (fn < 256)
  | .pause fn _ => decide (fn < 256)
  | .resume fn _ => decide (fn < 256)
  | .close fn _ => decide (fn < 256)
  | .payloadFetchComplete stream seq _ => decide (stream < 65536) && decide (seq < 2 ^ 48)
  | .payloadFetchFail stream seq => decide (stream < 65536) && decide (seq < 2 ^ 48)
  | .completionTimeout tag => decide (tag < 1024)
  | .tagQuarantineEnd tag => decide (tag < 1024)
  | .unexpectedCompletion tag => decide (tag < 1024)
  | .nop _ => true
  | .planLoad _ _ => true
  | .planCommit _ => true
  | .planCancel _ => true
  | .keyLoad _ _ => true
  | .keyClear _ => true
  | .tenantSet _ _ => true
  | .tenantQuarantine _ => true
  | .tenantRelease _ => true
  | .tenantEvict _ => true
  | .knotSignal _ => true
  | .knotDump _ => true
  | .libPublish _ => true
  | .libRetire _ => true
  | .libPrefetchStage _ => true
  | .libPrefetchCancel _ => true
  | .libPrefetchUnstage _ => true
  | .powerPolicy _ _ => true
  | .fwBlock _ _ _ => true
  | .fwActivateNow _ => true
  | .fwActivateAtReset _ => true
  | .fwDiscard _ => true
  | .debugUnlock _ _ => true
  | .debugLock _ => true
  | .warmReset _ => true
  | .serviceWarmReset => true
  | .warmResetEnter => true
  | .logRead _ => true
  | .sliceSet _ _ => true
  | .peerProbeTimeout chip port => decide (chip < 2048) && decide (port < 8)
  | .intakeCut => true
  | .tickBoundary _ => true
  | .checkpoint graft => decide (graft < 2 ^ 32)
  | .leadLoadsDone => true
  | .nopInstruction q _ => decide (q < 8)
  | .fence q _ => decide (q < 8)
  | .signal q _ => decide (q < 8)
  | .wait q _ => decide (q < 8)
  | .release q _ => decide (q < 8)
  | .waitTime q _ => decide (q < 8)
  | .waitTimeExpire q => decide (q < 8)
  | .endQueue q _ => decide (q < 8)
  | .loadBlock _ => true
  | .loadStage _ => true
  | .loadSpill _ => true
  | .loadCopy _ => true
  | .loadXpose _ => true
  | .sapinLand _ => true
  | .sapoutLaunch _ => true
  | .sapoutForward _ => true
  | .sapSlot sched => decide (sched < 65536)
  | .sapLate sched => decide (sched < 65536)
  | .codecOpen _ => true
  | .codecSeal _ => true
  | .latticeMul _ => true
  | .plinthMma _ => true
  | .vectorOp _ => true
  | .hostioGather _ => true
  | .hostioPost _ => true
  | .hostioNotify _ => true
  | .engineWorkComplete q => decide (q < 8)
  | .chunk port u => decide (port < 8) && unitWf u
  | .knotSignalMessage port u => decide (port < 8) && unitWf u
  | .ack port u => decide (port < 8) && unitWf u
  | .nak port u => decide (port < 8) && unitWf u
  | .replayTimeout port peer => decide (port < 8) && decide (peer < 2048)
  | .retryAfter port u => decide (port < 8) && unitWf u
  | .retryAfterExpiry port peer => decide (port < 8) && decide (peer < 2048)
  | .unreachable port u => decide (port < 8) && unitWf u
  | .keepalive port u => decide (port < 8) && unitWf u
  | .keepaliveSend port => decide (port < 8)
  | .hopDown port => decide (port < 8)
  | .portOff port => decide (port < 8)
  | .drainTimeout port => decide (port < 8)
  | .peerUp port u => decide (port < 8) && unitWf u
  | .peerDown port u => decide (port < 8) && unitWf u
  | .commitCheck port u => decide (port < 8) && unitWf u
  | .commitAbort port u => decide (port < 8) && unitWf u
  | .ringStop port u => decide (port < 8) && unitWf u
  | .peerProbe port u => decide (port < 8) && unitWf u
  | .peerAck port u => decide (port < 8) && unitWf u
  | .announce port u => decide (port < 8) && unitWf u
  | .announceSend => true
  | .announceTimeout => true
  | .syncReqSend => true
  | .syncReq port u => decide (port < 8) && unitWf u
  | .syncResp port u => decide (port < 8) && unitWf u
  | .holdover => true
  | .holdoverExpiry => true
  | .cxlMemRead ld line => decide (ld < 16) && decide (line < 2 ^ 36)
  | .cxlMemWrite ld line data => decide (ld < 16) && decide (line < 2 ^ 36) && decide (data.length = 64)
  | .ownershipRequest ld line => decide (ld < 16) && decide (line < 2 ^ 36)
  | .cacheFill page _ => decide (page < 2 ^ 30)
  | .bisnpResponse ld line data => decide (ld < 16) && decide (line < 2 ^ 36) && lineWf data
  | .biTimeout ld line => decide (ld < 16) && decide (line < 2 ^ 36)
  | .dirtyPageWriteback page => decide (page < 2 ^ 30)
  | .prefetchEnd record => decide (record < 64)
  | .cancelComplete record => decide (record < 64)
  | .hbmPatrolScrub unit _ => decide (unit < 3 * 2 ^ 30)
  | .poolPatrolScrub word _ => decide (word < 2 ^ 24)
  | .transferTimeout => true
  | .queryDeviceIdentifiers => true
  | .getFirmwareParameters => true
  | .requestUpdate => true
  | .passComponentTable c => decide (c.classification < 65536) && decide (c.identifier < 65536)
  | .updateComponent c => decide (c.classification < 65536) && decide (c.identifier < 65536)
  | .requestFirmwareData bytes _ => decide (bytes.length = 1024)
  | .activateFirmware _ => true
  | .getStatus => true
  | .cancelUpdateComponent => true
  | .cancelUpdate => true
  | .moduleCapSet _ => true
  | .brakeEffecterSet _ => true
  | .sensorRead _ => true
  | .pdrRead => true
  | .mctpControl c => mctpWf c
  | .vendorLogRead source _ _ => decide (source < 3)
  | .faultRecordRead => true
  | .anchor => true
  | .writeBackComplete page _ life _ => decide (page < 2 ^ 30) && decide (life ≤ 100)
  | .descriptorFetchComplete fn ring _ => decide (fn < 256) && decide (ring < 4)
  | .dynamicAddressAssignment address => decide (address < 128)

end Sys2Proof
end

