-- ==== Sys2Proof/Tests/Slice0.lean ====
section
/-! SUPPORT. Tests: witnesses that meet the hypotheses of every statement, ill-formed commands, and values of the spec. -/

namespace Sys2Proof.Tests

set_option maxRecDepth 100000
set_option Elab.async false

open Sys2Proof Sys2Proof.Machine

/-! ### States and words of the tests -/

/-- Values at their bit places, as a number. -/
def word (fs : List (Nat × Nat)) : Nat := fs.foldl (fun a f => a + f.2 * 2 ^ f.1) 0
def desc (fs : List (Nat × Nat)) : Desc := BitVec.ofNat 512 (word fs)
def insn (fs : List (Nat × Nat)) : Insn := BitVec.ofNat 128 (word fs)

def liveRing : Ring := { Ring.reset with enable := true, log2 := 6 }
def liveFn : FnState := { FnState.reset with rings := List.replicate 4 liveRing }

/-- A chip that is up, with its library open and no grove time. -/
def up : State := { State.reset with
  pin := { Pins.reset with aonRstN := true, mainEn := true, mainPg := true, perstN := true, refclkOk := true, serdesA := true, serdesB := true }
  boot := { Boot.reset with phase := .firmware, dom := .on, clockOk := true, ready := true, hbmOk := true }
  host := { HostPort.reset with linkUp := true, ldUp := 0xFFFF }
  lib := { Lib.reset with isOpen := true, capacity := 4 } }

/-- Boundaries are generated. -/
def ticking (s : State) : State := { s with time := { s.time with st := .root, now := 100 } }

/-- An admin descriptor is the next to be carried out. -/
def adm (s : State) (d : Desc) : State := setFn s 0 { liveFn with adminFetched := [d] }

/-- A ring 0 descriptor of an enabled tenant is at the front of its function. -/
def taken (fn : Nat) (d : Desc) : State :=
  setTen (setFn { up with host := { up.host with vfNum := 3 } } fn { liveFn with fetched := [(0, d)], tally := { frames := 0, rateLimited := 0, refused := 0, maxFrames := 4 } }) fn
    { TenantRec.reset with enabled := true, classes := 15, streamQuota := 8, aQuota := 4, maxFrames := 4 }

def model0 : ModelEntry :=
  { modelId := 9, ring := 0, resultEntries := 1, keySlot := 2, keyId := 77, nonceBase := List.replicate 12 0, home := 0, maxBound := 4
    maxBoundA := 2, stateLen := 64, initAddr := 2 ^ 22 }
def plan0 : Plan :=
  { setId := 7, quarters := 40, catchup := [0, 0], energy := [1, 1, 1, 1], energyFixed := 1, keys := 4, knots := [], models := [model0]
    grafts := [], rings := [], sched := [], queues := List.replicate 8 [], fixedFor := [] }

/-- A plan is active and its queues run. -/
def running (s : State) (p : Plan) : State :=
  { s with core := { s.core with active := some p, queues := List.replicate 8 { Queue.reset with st := .running } } }

/-- Queue q holds one instruction. -/
def runs (s : State) (q : Nat) (w : Insn) : State := running s { plan0 with queues := setAt plan0.queues q [w] }

def withStream (s : State) (i : Nat) (x : Stream) : State := setStream s i x
def boundStream : Stream := { Stream.reset with st := .bound, vst := .bound, tenant := 1, model := 9, vmodel := 9, stateAddr := 2 ^ 22, stateLen := 64 }
def frame0 : Pending := { ord := 0, seq := 0, cookie := 0, addr := 0, len := 3, eou := false, intake := 0, age := 0, payload := some [1, 2, 3] }
def work0 : WorkFrame := { stream := 5, tenant := 1, cls := 0, modelIdx := 0, tile := 0, column := 3, frame := frame0, posted := none, refilled := false }
def held (s : State) (h : Nat) (tag : Option Nat) : State := setSlot s h { count := 1, tag := tag, carry := false }

def activePort : Port := { Port.reset with st := .active, txCredit := 100 }
/-- Every port is ACTIVE. -/
def linked (s : State) : State := { s with link := { s.link with ports := List.replicate 8 activePort } }
def bodyOf (fs : List (Nat × Nat × Nat)) : List Byte :=
  fs.foldl (fun b f => b.take (f.1 - 24) ++ leBytes f.2.1 f.2.2 ++ b.drop (f.1 - 24 + f.2.1)) (List.replicate 192 0)
def head0 : Head :=
  { typ := messageType, msg := 0, dst := 0, hop := false, src := 5, noid := false, seq := 0, tag := 0, replay := false, tick := 0, plan := 7
    body := [], credit := 0 }
/-- A control message of chip 5; its body as (byte, length, value). -/
def msg (m : Nat) (fs : List (Nat × Nat × Nat)) : RawUnit := buildUnit { head0 with msg := m, body := bodyOf fs } []

def page0 : CachePage := { page := 0, dirty := false, writing := false, filling := false, fresh := [], evicting := false, snap := [], snapPoison := [] }
def entry0 : CatalogEntry := { first := 0, pages := 2, imageId := 1, modelId := 9, keyId := 77, nonceBase := [] }
def rec0 : PrefetchRec :=
  { id := 0, first := 0, pages := 2, sh0 := true, sh1 := false, shp := false, pos := 0, follow := none, dest := 2 ^ 22, destLen := 4096
    init := 2 ^ 23, initLen := 64, keySlot := 2, running := false, cancelling := false, cancelAsked := false, owner := none }
def meters0 : Meters := { tj := 50, thbm := 50, baseMj := 10, planMj := 10, brakeLow := false }
/-- Stream 5 has a frame in column 3 of tile 0 of the plan's model. -/
def tiled (s : State) : State := withStream { s with str := { s.str with work := [work0] } } 5 boundStream
/-- Key slot 2 holds a key of tenant 1. -/
def keyed (s : State) : State := setKey s 2 { key := List.replicate 32 0, keyId := 77, owner := 1, salt := 5 }
def block1 : List Byte := sealBlock [7] 4 77 (List.replicate 11 0 ++ [0x80]) (List.replicate 32 0)
def withSched (s : State) (es : List SchedEntry) : State := running s { plan0 with sched := es, queues := setAt plan0.queues 2 [0x30] }
def land0 : SchedEntry := { offset := 500, port := 1, kind := 2, peer := 5, block := 4, model := 0, len := 1 }
def sendFlight : SendWork := { sched := 0, slot := 9, started := false, sent := 0, acked := 0 }
def flight0 (w : Work) : Flight := { index := 0, pushes := [], releases := [], knot := none, finished := false, work := w }
def flying (s : State) (q : Nat) (fl : Flight) : State := setQueue s q { Queue.reset with st := .running, flights := [fl] }
/-- A chunk of chip 5 with one unit of 64 zero bytes, and its plan's tick. -/
def chunkHead (block : Nat) : Head := { head0 with typ := chunkType, msg := 0, body := bodyOf [(24, 4, 9), (28, 4, block), (32, 1, 0x80), (34, 2, 1)] }
def chunk0 (block : Nat) : RawUnit := buildUnit (chunkHead block) (List.replicate 64 0)
def broken (u : RawUnit) : RawUnit := { u with payload := u.payload.drop 1 }
def unit0 (tries : Nat) : OutUnit :=
  { peer := 5, lsn := 3, tag := 2, msg := 0x20, u := { head := List.replicate 256 0, payload := [], tail := [] }, tries := tries, retryWait := false, again := false, refused := [], sched := none }
def queued (s : State) (p : Nat) (us : List OutUnit) : State := setPort (linked s) p { activePort with units := us }
def portIn (s : State) (p : Nat) (st : PortState) : State := setPort (linked s) p { activePort with st := st }
def ring0 : RingEntry := { ringId := 1, position := 0, members := [0, 5] }
def ringed : Plan := { plan0 with rings := [ring0], sched := [land0] }
def probe0 (tries : Nat) : Probe := { chip := 5, port := 7, tries := tries, answer := none, unreachable := false }
def probing (s : State) (tries : Nat) : State := { linked s with admin := some { d := 0, work := .slice }, link := { (linked s).link with probes := [probe0 tries] } }
def lead0 (src : Nat) : State :=
  let s := running up { plan0 with queues := setAt plan0.queues 0 [insn [(0, 0x10), (16, 9), (48, src), (80, 1), (92, 0xFFF)]] }
  { s with core := { s.core with lead := [0] } }
def cached (s : State) : State := { s with lib := { s.lib with pages := [page0] } }
def listed (s : State) : State := { s with lib := { s.lib with catalog := [entry0] } }
def recorded (s : State) (r : PrefetchRec) : State := { s with lib := { s.lib with recs := [r] } }

/-! ### Images and keys -/

/-- A firmware header of SVN 0 with one empty PRIMARY component, signed with the key whose public point is the base point of P-384. -/
def fwHead0 : List Byte := leBytes 4096 (word [(8 * 0, 0x157464b53), (8 * 7, 0x10), (8 * 9, 0x20), (8 * 20, 0x7), (8 * 24, 0xa1), (8 * 32, 0x1), (8 * 64, 0x1), (8 * 69, 0x10), (8 * 80, 0x5bb99848f1d21ad5fb656fe7bfde4e27dae1f663bfc70c4c4307be1411b7fd216ae3b1b17e32d94c3896ac51a760b038), (8 * 3872, 0x147584099db678a96e67ffe2e3524792b9f557bfeb5bed1abf89ea0cc0d81de11c29d99a3153882c405cf14416ef45f9b70a7672385e543a6c2955bf5df20255382a5482e041f759989ba78b623b1d6e74ad20f31ec7b18e37058bbe22ca87aa5f0eea907c1d437a9d817e1dceb1600ac0b8f0b51331dae97c149a28bd1df4f829dc9292bf989e5d6f2c26964ade1736b70a7672385e543a6c2955bf5df20255382a5482e041f759989ba78b623b1d6e74ad20f31ec7b18e37058bbe22ca87aa)])
/-- SHA-384 of that public key. -/
def keyDigest0 : List Byte := leBytes 48 0x654b811f19e108eab70600d86aa5f04bfad296f7d87d69500977a9c8d122aa9478e155e5cfb05280eb82b571b14d9da1
/-- A plan image without models: eight queues of one END each. -/
def planImage0 : List Byte := leBytes 4608 (word [(8 * 0, 0x14c504b53), (8 * 7, 0x10), (8 * 9, 0x12), (8 * 12, 0x74e85e9bb), (8 * 24, 0x28), (8 * 32, 0x1010101), (8 * 65, 0x10), (8 * 68, 0x1), (8 * 72, 0x1040), (8 * 76, 0x1), (8 * 80, 0x1080), (8 * 84, 0x1), (8 * 88, 0x10c0), (8 * 92, 0x1), (8 * 97, 0x11), (8 * 100, 0x1), (8 * 104, 0x1140), (8 * 108, 0x1), (8 * 112, 0x1180), (8 * 116, 0x1), (8 * 120, 0x11c0), (8 * 124, 0x1), (8 * 4096, 0xf), (8 * 4160, 0xf), (8 * 4224, 0xf), (8 * 4288, 0xf), (8 * 4352, 0xf), (8 * 4416, 0xf), (8 * 4480, 0xf), (8 * 4544, 0xf)])
/-- The metadata of a library image of one layer, two shards and two blocks. -/
def libImage0 : List Byte := leBytes 4096 (word [(8 * 0, 0x131594652), (8 * 7, 0x2), (8 * 9, 0x20), (8 * 16, 0x11a7acf86bc51732c5), (8 * 32, 0x9), (8 * 36, 0x4d), (8 * 40, 0x5), (8 * 54, 0x1), (8 * 56, 0x2), (8 * 60, 0x2), (8 * 65, 0x2), (8 * 72, 0x240), (8 * 80, 0x240), (8 * 88, 0x280), (8 * 97, 0x10), (8 * 104, 0x40), (8 * 512, 0x605), (8 * 516, 0x40), (8 * 520, 0x40), (8 * 528, 0x1), (8 * 580, 0x1), (8 * 584, 0x1), (8 * 592, 0x1), (8 * 596, 0x1), (8 * 600, 0x1), (8 * 640, 0x40), (8 * 644, 0x3), (8 * 646, 0x5), (8 * 648, 0x1), (8 * 652, 0x1), (8 * 656, 0x43), (8 * 660, 0x3), (8 * 662, 0x7), (8 * 664, 0x40), (8 * 668, 0x40)])
/-- Key slot 511 of the operator wrapped under a key of zeros: KEY_ID 5, bytes 0 to 31. -/
def wrapped0 : List Byte := leBytes 64 0x275705b9362bbdb344665aa454d1cedda89de03c29faf4c2d84a501d8fff1e90d1cbae097202ed2e83f85435a5bf69e5

/-! ### Small helpers of the witnesses -/

def okVal {α β : Type} (d : β) : Except α β → β
  | .ok b => b
  | .error _ => d
def isOk {α β : Type} : Except α β → Bool
  | .ok _ => true
  | .error _ => false
def okIs {α β : Type} [BEq β] (v : β) : Except α β → Bool
  | .ok b => b == v
  | .error _ => false
def errorIs {α β : Type} [BEq α] (v : α) : Except α β → Bool
  | .ok _ => false
  | .error e => e == v

theorem ok_of {α β : Type} {x : Except α β} {d : β} (h : isOk x = true) : x = .ok (okVal d x) := by
  cases x with
  | ok => rfl
  | error => cases h

theorem ok_is {α β : Type} [BEq β] [LawfulBEq β] {x : Except α β} {v : β} (h : okIs v x = true) : x = .ok v := by
  cases x with
  | ok b => rw [eq_of_beq h]
  | error => cases h

theorem error_is {α β : Type} [BEq α] [LawfulBEq α] {x : Except α β} {v : α} (h : errorIs v x = true) : x = .error v := by
  cases x with
  | ok => cases h
  | error e => rw [eq_of_beq h]

theorem initNamed_none {s : State} (r : PrefetchRec) (h : s.core.active = none) (a : s.core.armed = false) : ¬ InitNamed s r := by
  rintro ⟨p, h' | ⟨h', -⟩, -⟩
  · rw [h] at h'; cases h'
  · rw [a] at h'; cases h'

theorem initNamed_some {s : State} (r : PrefetchRec) (p : Plan) (m : ModelEntry) (h : s.core.active = some p) (i : m ∈ p.models)
    (a : r.init ≤ m.initAddr) (b : m.initAddr < r.init + r.initLen) : InitNamed s r := ⟨p, .inl h, m, i, a, b⟩

/-- A pair from its first part. -/
theorem pair_of {α β : Type} {x : α × β} {a : α} (h : x.1 = a) : x = (a, x.2) := by rw [← h]

theorem none_all {α β : Type} {x : Option (α × β)} {P : α → β → Prop} (h : x = none) : ∀ a b, x = some (a, b) → P a b := by
  intro a b h'; rw [h] at h'; cases h'

theorem none_all1 {α : Type} {x : Option α} {P : α → Prop} (h : x = none) : ∀ a, x = some a → P a := by
  intro a h'; rw [h] at h'; cases h'

theorem one_all {α β : Type} {x : Option (α × β)} {P : α → β → Prop} {a : α} {b : β} (h : x = some (a, b)) (p : P a b) :
    ∀ a b, x = some (a, b) → P a b := by
  intro a' b' h'; rw [h] at h'; cases h'; exact p

theorem getAt_all {α : Type} {P : α → Prop} {d : α} (hd : P d) : ∀ (l : List α) (i : Nat), (∀ x ∈ l, P x) → P (getAt d l i)
  | [], _, _ => hd
  | x :: _, 0, h => h x (List.mem_cons_self ..)
  | _ :: t, i + 1, h => getAt_all hd t i (fun y hy => h y (List.mem_cons_of_mem _ hy))

/-- What holds of a queue at reset and of every queue of a state holds of each by its number. -/
theorem queue_all {s : State} {P : Queue → Prop} (h : ∀ x ∈ s.core.queues, P x) (d : P Queue.reset) (q : Nat) : P (queueOf s q) :=
  getAt_all d s.core.queues q h

theorem tab_marked (l : List Nat) (k : Nat) (h : k ∈ l) : (tabFind (l.map (fun t => (t, true))) k).isNone = false := by
  induction l with
  | nil => cases h
  | cons x t ih =>
    simp only [List.map_cons, tabFind]
    split
    · rfl
    · rename_i e
      exact ih ((List.mem_cons.mp h).resolve_left (fun y => e y.symm))

/-- No read tag is free while every one is quarantined. -/
theorem no_tag (h : HostPort) (q : h.quarantine = allTags.map (fun t => (t, true))) : freeReadTag h = none := by
  unfold freeReadTag
  rw [List.find?_eq_none]
  intro k hk
  rw [q, tab_marked allTags k hk]
  simp

/-- The plaintext that `wrapped0` gives: KEY_ID 5, owner 255, slot 511, bytes 0 to 31. -/
def plain0 : List Byte := leBytes 40 (word [(256, 5), (288, 255), (304, 511)] + leNat ((List.range 32).map (BitVec.ofNat 8)))

theorem unwrap0 : kwUnwrap (List.replicate 32 0) (bytesAt wrapped0 0 48) = some plain0 := by decide +kernel

theorem signed0 : ecdsaVerify (bytesAt fwHead0 3872 96) (bytesAt fwHead0 3968 96) (sha384 (fwHead0.take 3968)) = true := by decide +kernel

theorem take0 : fwHead0.take 4096 = fwHead0 := by decide +kernel

/-- The header passes R308 where its key is trusted. -/
theorem head0_passes (s : State) (k : signKeyOk s (leAt fwHead0 25 1) (bytesAt fwHead0 3872 96) = true) (f : fwSvn fwHead0 < s.fuse.svnBlown ↔ False)
    (c : fwCfgOk s fwHead0 = true) : fwCheckHeader s fwHead0 true = 0 := by
  have a : fwHdrOk fwHead0 = true := by decide +kernel
  have b : fwFieldOk fwHead0 = true := by decide +kernel
  simp only [fwCheckHeader, a, b, k, signed0, f, c, Bool.not_true, Bool.false_eq_true, if_false, Bool.and_false]

/-! ### Ill-formed commands are refused by the check -/

theorem test_ill_formed :
    ([.aonRstNRelease 4 0 false, .aonRstNRelease 0 8 false, .portTrainingStart 8, .portTrained 8, .portTrainingTimeout 8, .hello 8,
      .helloAck 8 (msg 0x41 []), .helloAck 0 { head := [], payload := [], tail := [] }, .configRequest 16 0 (.vfEnable 0), .configRequest 0 256 (.vfEnable 0), .windowOpen 4097,
      .ldReset 16, .narrowAccess 256 0 8 none, .narrowAccess 272 0 8 (some 1), .narrowAccess 514 0 8 none, .narrowAccess 1280 0 8 none, .narrowAccess 2049 0 8 none, .narrowAccess 0 0 3 none, .lowWordRead 256 0, .highWordRead 256 0, .registerWrite 256 0 0,
      .ringEnable 256 0 6, .ringEnable 0 4 6, .ringEnable 0 0 32, .ringDisable 256 0 6, .ringDisable 0 4 6, .ringDisable 0 0 32,
      .knotDbgSet 48 0, .knotDbgSet 0 65536, .knotDbgAdd 48 0, .knotDbgAdd 0 65536, .doorbellInvalidation 256 .failed,
      .doorbellPoll 256 .failed, .frame 256 0, .openStream 256 0, .bind 256 0, .pause 256 0, .resume 256 0, .close 256 0] : List Instr).all
      (fun c => !c.wellFormed) = true ∧
    ([.payloadFetchComplete 65536 0 [], .payloadFetchComplete 0 (2 ^ 48) [], .payloadFetchFail 65536 0, .payloadFetchFail 0 (2 ^ 48),
      .completionTimeout 1024, .tagQuarantineEnd 1024, .unexpectedCompletion 1024, .peerProbeTimeout 2048 0, .peerProbeTimeout 0 8,
      .checkpoint (2 ^ 32), .nopInstruction 8 0, .fence 8 0, .signal 8 0, .wait 8 0, .release 8 0, .waitTime 8 0, .waitTimeExpire 8,
      .endQueue 8 0, .sapSlot 65536, .sapLate 65536, .engineWorkComplete 8, .chunk 8 (chunk0 0),
      .chunk 0 { chunk0 0 with tail := [0] }, .ack 0 { msg 0x10 [] with payload := [0] }] : List Instr).all
      (fun c => !c.wellFormed) = true ∧
    ([.knotSignalMessage 8 (msg 0x20 []), .knotSignalMessage 0 { msg 0x20 [] with head := [] }, .ack 8 (msg 0x10 []), .nak 8 (msg 0x11 []),
      .nak 0 { msg 0x11 [] with head := [] }, .replayTimeout 8 0, .replayTimeout 0 2048, .retryAfter 8 (msg 0x12 []),
      .retryAfter 0 { msg 0x12 [] with head := [] }, .retryAfterExpiry 8 0, .retryAfterExpiry 0 2048, .unreachable 8 (msg 0x46 []),
      .unreachable 0 { msg 0x46 [] with head := [] }, .keepalive 8 (msg 1 []), .keepalive 0 { msg 1 [] with head := [] }, .keepaliveSend 8,
      .hopDown 8, .portOff 8, .drainTimeout 8, .peerUp 8 (msg 0x43 []), .peerUp 0 { msg 0x43 [] with head := [] }, .peerDown 8 (msg 0x44 []),
      .peerDown 0 { msg 0x44 [] with head := [] }] : List Instr).all (fun c => !c.wellFormed) = true ∧
    ([.commitCheck 8 (msg 0x21 []), .commitCheck 0 { msg 0x21 [] with head := [] }, .commitAbort 8 (msg 0x22 []),
      .commitAbort 0 { msg 0x22 [] with head := [] }, .ringStop 8 (msg 0x23 []), .ringStop 0 { msg 0x23 [] with head := [] },
      .peerProbe 8 (msg 0x30 []), .peerProbe 0 { msg 0x30 [] with head := [] }, .peerAck 8 (msg 0x31 []),
      .peerAck 0 { msg 0x31 [] with head := [] }, .announce 8 (msg 0x50 []), .announce 0 { msg 0x50 [] with head := [] },
      .syncReq 8 (msg 0x51 []), .syncReq 0 { msg 0x51 [] with head := [] }, .syncResp 8 (msg 0x52 []),
      .syncResp 0 { msg 0x52 [] with head := [] }] : List Instr).all (fun c => !c.wellFormed) = true ∧
    ([.cxlMemRead 16 0, .cxlMemRead 0 (2 ^ 36), .cxlMemWrite 16 0 (List.replicate 64 0), .cxlMemWrite 0 (2 ^ 36) (List.replicate 64 0),
      .cxlMemWrite 0 0 [], .ownershipRequest 16 0, .ownershipRequest 0 (2 ^ 36), .cacheFill (2 ^ 30) .clean, .bisnpResponse 16 0 none,
      .bisnpResponse 0 (2 ^ 36) none, .bisnpResponse 0 0 (some []), .biTimeout 16 0, .biTimeout 0 (2 ^ 36), .dirtyPageWriteback (2 ^ 30),
      .prefetchEnd 64, .cancelComplete 64, .hbmPatrolScrub (3 * 2 ^ 30) .clean, .poolPatrolScrub (2 ^ 24) .clean, .passComponentTable { classification := 65536, identifier := 1 },
      .passComponentTable { classification := 10, identifier := 65536 }, .updateComponent { classification := 65536, identifier := 1 },
      .updateComponent { classification := 10, identifier := 65536 }, .mctpControl (.pldm (.setTid 256)), .mctpControl (.pldm (.getVersion 64)),
      .mctpControl (.pldm (.getCommands 64)), .requestFirmwareData [] true, .mctpControl (.setEndpointId 256), .vendorLogRead 3 0 64,
      .writeBackComplete (2 ^ 30) true 0 true, .writeBackComplete 0 true 101 true, .descriptorFetchComplete 256 0 .error,
      .descriptorFetchComplete 0 4 .error, .dynamicAddressAssignment 128] : List Instr).all (fun c => !c.wellFormed) = true := by
  decide +kernel

/-- Commands at the edge of their ranges are well formed. -/
theorem test_well_formed :
    ([.aonRstNRelease 3 7 true, .helloAck 7 (msg 0x41 []), .narrowAccess 255 1 64 none, .narrowAccess 271 0 8 (some 255), .windowOpen 4096, .ringEnable 255 3 31, .knotDbgSet 47 65535,
      .peerProbeTimeout 2047 7, .chunk 7 (chunk0 0), .cxlMemWrite 15 (2 ^ 36 - 1) (List.replicate 64 0), .writeBackComplete 0 true 100 true,
      .dynamicAddressAssignment 127] : List Instr).all (·.wellFormed) = true := by decide +kernel

/-! ### Values of the spec -/

/-- CRC-32C of the nine digits is 0xE3069283 (Table 10-7). -/
theorem test_crc32c : crc32c [0x31, 0x32, 0x33, 0x34, 0x35, 0x36, 0x37, 0x38, 0x39] = 0xE3069283 := by decide +kernel

/-- AES-256 of a block of zeros under a key of zeros (FIPS 197 known answer). -/
theorem test_aes : aesEncrypt (aesRoundKeys (List.replicate 32 0)) (List.replicate 16 0) =
    [0xDC, 0x95, 0xC0, 0x78, 0xA2, 0x40, 0x89, 0x89, 0xAD, 0x48, 0xA2, 0x14, 0x92, 0x84, 0x20, 0x87] := by decide +kernel

/-- SHA-384 of "abc" begins cb00753f (FIPS 180-4 known answer). -/
theorem test_sha384 : (sha384 [0x61, 0x62, 0x63]).take 4 = [0xCB, 0x00, 0x75, 0x3F] := by decide +kernel

/-- The two plane sums of Table 8-3. -/
theorem test_plane_sums : tSum [true, false, false, true] [23, 0xF9, 0, 127] = 157 ∧ tSum [true, true, false, false] [23, 0xF9, 0, 127] = -111 := by
  decide +kernel

/-- The last steps of Table 8-4: 78.5 × 0.03125, −27.75 × 0.03125, and their sum, FP32 0x3FCB0000. -/
theorem test_combine : fpMul 0x429D0000 0x3D000000 = 0x401D0000 ∧ fpMul 0xC1DE0000 0x3D000000 = 0xBF5E0000 ∧
    fpAdd 0x401D0000 0xBF5E0000 = 0x3FCB0000 := by decide +kernel

/-- The nonce of block 70 (10, "Worked through"). -/
theorem test_nonce : imageNonce [0x9C, 0x4E, 0x21, 0x07, 0xD3, 0x5A, 0x88, 0xF0, 0, 0, 0, 0] 70 =
    [0x9C, 0x4E, 0x21, 0x07, 0xD3, 0x5A, 0x88, 0xF0, 0x46, 0, 0, 0] := by decide +kernel

/-- Table 10-10: the stream 0x93, 0x07 under its code table. -/
theorem test_idzil :
    idzilDecode ([0x31] ++ List.replicate 126 0 ++ [0x30, 0x02] ++ List.replicate 7 0 ++ [0x93, 0x07]) 9 = some [1, 0, 0, 0, 0, 0, 0, 0, 0xFF] := by
  decide +kernel

/-- The SIGNAL of 09, "Worked through": opcode, KNOT 4, REMOTE, PORT 3, CHIP 429, AMOUNT 1. -/
theorem test_signal_word :
    let w : Insn := 0x0000011AD3440002
    opcodeOf w = 0x02 ∧ gateOf w = 0 ∧ fieldOf w 21 16 = 4 ∧ bitAt w.toNat 22 = true ∧ fieldOf w 26 24 = 3 ∧ fieldOf w 38 28 = 429 ∧
      fieldOf w 55 40 = 1 := by decide +kernel

/-- Table 15-7: H and its band at Tj 93, Thbm 84, and the classes admitted by budgets of 3,000 and 4,500 mJ. -/
theorem test_governor :
    let p := { plan0 with energy := [1800, 1500, 900, 1200], energyFixed := 0 }
    thermalMargin 93 84 = 6 ∧ thermalBand 6 = 1 ∧ admitted p 3000 false = 1 ∧ admitted p 4500 false = 7 ∧ admitted p 4500 true = 1 := by
  decide +kernel

/-- The signal of 09, "Worked through", met by the WAIT on K4 once it has arrived, and not before. -/
theorem test_wait : waitMet 4 1 1 = true ∧ waitMet 4 0 1 = false := by decide +kernel


/-! ### Hypotheses that can be met, statement by statement -/

theorem meets_PowerComesUp :
    (∃ (s : State) (src : Nat) (svc : Nat) (_ : Bool), s.boot.phase = .held ∧ src < 4 ∧ svc < 8) ∧
    (∃ (s : State) (a : Nat), s.boot.phase ≠ .held ∧ a < 128) ∧
    (∃ (s : State), mayRaiseMain s = true ∧ s.boot.supplyHold = false ∧ s.pin.mainEn = false) ∧
    (∃ (s : State), s.pin.mainEn = true ∧ s.pin.mainPg = false ∧ s.boot.dom = .off) ∧
    (∃ (s : State), s.pin.mainEn = true ∧ s.pin.mainPg = false) ∧
    (∃ (s : State), mayRaiseMain s = true ∧ s.boot.supplyHold = true) :=
  ⟨⟨State.reset, 3, 7, true, by decide +kernel⟩,
   ⟨up, 127, by decide +kernel⟩,
   ⟨{ up with boot := { up.boot with dom := .off }, pin := { up.pin with mainEn := false } }, by decide +kernel⟩,
   ⟨{ up with boot := { up.boot with dom := .off }, pin := { up.pin with mainPg := false } }, by decide +kernel⟩,
   ⟨{ up with boot := { up.boot with dom := .off }, pin := { up.pin with mainPg := false } }, by decide +kernel⟩,
   ⟨{ up with boot := { up.boot with dom := .off, supplyHold := true } }, by decide +kernel⟩⟩

theorem meets_MainDomainsStartAndStop :
    (∃ (s : State) (dev : Int) (_ : Bool) (_ : Bool), s.boot.dom = .reset ∧ dev.natAbs ≤ 100 ∧ s.link.ports.length = 8) ∧
    (∃ (s : State) (dev : Int) (m : Bool) (_ : Bool) (_ : Bool), s.boot.dom = .reset ∧ (100 < dev.natAbs ∨ m = true) ∧ s.link.ports.length = 8) ∧
    (∃ (s : State), s.boot.dom = .on ∧ s.boot.hbmOk = false ∧ s.boot.hbmFailed = 0) ∧
    (∃ (s : State) (f : BitVec 8), s.boot.dom = .on ∧ s.boot.hbmOk = false ∧ s.boot.hbmFailed = 0 ∧ f ≠ 0) ∧
    (∃ (s : State), s.pin.mainEn = true ∧ s.pin.mainPg = true) :=
  ⟨⟨{ up with boot := { up.boot with dom := .reset } }, -100, false, true, by decide +kernel⟩,
   ⟨{ up with boot := { up.boot with dom := .reset } }, 101, false, true, true, by decide +kernel⟩,
   ⟨{ up with boot := { up.boot with hbmOk := false } }, by decide +kernel⟩,
   ⟨{ up with boot := { up.boot with hbmOk := false } }, 1, by decide +kernel⟩,
   ⟨up, by decide +kernel⟩⟩

theorem meets_StewardBringsTheChipUp :
    (∃ (s : State), s.boot.phase = .rom ∧ bootSrc s = 1) ∧
    (∃ (s : State) (slot : Nat) (rest : List Nat), s.boot.phase = .rom ∧ (bootSrc s = 0 ∨ bootSrc s = 2 ∧ s.boot.cold = false) ∧ bootOrder s = slot :: rest ∧ attempts s slot < 2 ∧ bootCheck s slot = 0) ∧
    (∃ (s : State), s.boot.phase = .firmware ∧ s.boot.dom = .on ∧ s.boot.ready = false) ∧
    (∃ (s : State), (s.boot.phase = .rom ∨ s.boot.phase = .firmware) ∧ s.boot.ready = false ∧ s.boot.timedOut = false) ∧
    (∃ (s : State) (gib : Nat), s.boot.phase = .firmware ∧ s.boot.dom = .on ∧ s.lib.scanning = true ∧ s.boot.ready = true ∧ s.boot.hbmOk = true ∧ gib ≤ 4096) ∧
    (∃ (s : State) (gib : Nat), s.boot.phase = .firmware ∧ s.boot.dom = .on ∧ s.lib.scanning = true ∧ s.boot.ready = true ∧ s.boot.hbmOk = false ∧ s.boot.hbmFailed ≠ 0 ∧ gib ≤ 4096) :=
  ⟨⟨{ up with boot := { up.boot with phase := .rom, strap := 1 } }, by decide +kernel⟩,
   ⟨{ up with boot := { up.boot with phase := .rom, strap := 0 }, fuse := { up.fuse with keyDigests := [keyDigest0] }, stw := { up.stw with spi := memWrite 0xFF [] 0 fwHead0 } }, 0, [1], by decide +kernel⟩,
   ⟨{ up with boot := { up.boot with ready := false } }, by decide +kernel⟩,
   ⟨{ up with boot := { up.boot with phase := .rom, ready := false } }, by decide +kernel⟩,
   ⟨{ up with lib := { up.lib with scanning := true } }, 4096, by decide +kernel⟩,
   ⟨{ up with lib := { up.lib with scanning := true }, boot := { up.boot with hbmOk := false, hbmFailed := 0x80 } }, 4096, by decide +kernel⟩⟩

theorem meets_HealthyBootAndWarmReset :
    (∃ (s : State), s.boot.phase = .firmware ∧ s.boot.healthy = false ∧ s.boot.healthLate = false ∧ s.time.logNs - s.boot.releaseNs ≤ 2000000000 ∧ bootChecks s = true ∧ memWf 0xFF s.stw.spi = true) ∧
    (∃ (s : State), s.boot.phase = .firmware ∧ s.boot.healthy = false ∧ s.boot.healthLate = false) ∧
    (∃ (s : State), s.boot.phase ≠ .held ∧ s.boot.warm = none) ∧
    (∃ (s : State), warmMay s = true ∧ s.link.ports.length = 8) :=
  ⟨⟨{ up with boot := { up.boot with cfgRead := true }, fuse := { up.fuse with keyDigests := [keyDigest0] }, stw := { up.stw with spi := memWrite 0xFF [] 0 fwHead0 } }, rfl, rfl, rfl, by decide +kernel, by decide +kernel, memWrite_wf 0xFF [] 0 fwHead0 rfl⟩,
   ⟨up, by decide +kernel⟩,
   ⟨up, by decide +kernel⟩,
   ⟨{ up with boot := { up.boot with warm := some { source := .rack, due := true, flush := true } } }, by decide +kernel⟩⟩

theorem meets_TemperatureTripAndBrake :
    (∃ (s : State) (a : Int) (b : Int), s.boot.phase ≠ .held ∧ a < 115 ∧ b < 100) ∧
    (∃ (s : State) (a : Int) (b : Int), s.boot.phase ≠ .held ∧ (115 ≤ a ∨ 100 ≤ b) ∧ s.pin.thermtrip = false) ∧
    (∃ (s : State), s.boot.phase ≠ .held ∧ s.pin.thermtrip = false) :=
  ⟨⟨up, 114, 99, by decide +kernel⟩,
   ⟨up, 114, 100, by decide +kernel⟩,
   ⟨up, by decide +kernel⟩⟩

theorem meets_FunctionResets :
    (∃ (s : State), s.host.linkUp = true ∧ s.boot.ready = true) ∧
    (∃ (s : State) (n : Nat), s.host.linkUp = true ∧ s.boot.ready = true ∧ 1 ≤ n ∧ n ≤ s.host.vfNum) ∧
    (∃ (s : State), s.host.linkUp = true ∧ s.boot.ready = true) ∧
    (∃ (s : State) (n : Nat), 1 ≤ n ∧ (fnOf s n).resetting = true ∧ (fnOf s 0).resetting = false) ∧
    (∃ (s : State), (fnOf s 0).resetting = true) :=
  ⟨⟨up, by decide +kernel⟩,
   ⟨{ up with host := { up.host with vfNum := 3 } }, 3, by decide +kernel⟩,
   ⟨up, by decide +kernel⟩,
   ⟨setFn up 255 { FnState.reset with resetting := true }, 255, by decide +kernel⟩,
   ⟨setFn up 0 { FnState.reset with resetting := true }, by decide +kernel⟩⟩

theorem meets_HostLinkResetsAndTraining :
    (∃ (s : State) (c : LinkCause), s.boot.phase ≠ .held ∧ (s.host.linkUp = true ∨ c = .perst)) ∧
    (∃ (s : State), s.boot.phase ≠ .held) ∧
    (∃ (s : State) (ld : Nat), s.host.linkUp = true ∧ 1 ≤ ld ∧ ld < 16) ∧
    (∃ (s : State), s.host.linkUp = false ∧ s.pin.perstN = true ∧ s.pin.refclkOk = true ∧ s.boot.dom = .on ∧ s.boot.phase ≠ .recovery ∧ testMode s = false) :=
  ⟨⟨{ up with host := { up.host with linkUp := false } }, .perst, by decide +kernel⟩,
   ⟨up, by decide +kernel⟩,
   ⟨up, 15, by decide +kernel⟩,
   ⟨{ up with host := { up.host with linkUp := false } }, by decide +kernel⟩⟩

theorem meets_ConfigurationRequests :
    (∃ (s : State) (_ : Nat) (_ : Nat) (_ : ConfigOp), s.host.linkUp = true ∧ s.boot.ready = false) ∧
    (∃ (s : State) (fn : Nat) (_ : ConfigOp), s.host.linkUp = true ∧ s.boot.ready = true ∧ fn < 256 ∧ (fnOf s 0).resetting = true) ∧
    (∃ (s : State) (fn : Nat) (_ : ConfigOp), s.host.linkUp = true ∧ s.boot.ready = true ∧ (fnOf s 0).resetting = false ∧ fnExists s fn = true ∧ (fnOf s fn).resetting = true) ∧
    (∃ (s : State) (ld : Nat) (fn : Nat) (_ : ConfigOp), s.host.linkUp = true ∧ s.boot.ready = true ∧ (16 ≤ ld ∨ ld ≠ 0 ∧ fn ≠ 0 ∨ ld = 0 ∧ s.host.vfNum < fn ∧ ((fnOf s 0).resetting = false ∨ 256 ≤ fn))) ∧
    (∃ (s : State) (n : Nat), ConfigMay s 0 ∧ s.host.vfNum = 0 ∧ 0 < n ∧ n ≤ 255) ∧
    (∃ (s : State) (_ : Nat), ConfigMay s 0) ∧
    (∃ (s : State) (fn : Nat) (f : HostFeature) (_ : Bool), ConfigMay s fn ∧ featureSupported f = false) ∧
    (∃ (s : State) (fn : Nat) (_ : ConfigField), ConfigMay s fn) :=
  ⟨⟨{ up with boot := { up.boot with ready := false } }, 15, 255, .vfEnable 3, by decide +kernel⟩,
   ⟨setFn up 0 { FnState.reset with resetting := true }, 255, .vfEnable 3, by decide +kernel⟩,
   ⟨setFn { up with host := { up.host with vfNum := 255 } } 255 { FnState.reset with resetting := true }, 255, .vfEnable 3, by decide +kernel⟩,
   ⟨up, 0, 1, .cacheEnable true, by decide +kernel⟩,
   ⟨up, 255, by decide +kernel⟩,
   ⟨up, 0, by decide +kernel⟩,
   ⟨up, 0, .pri, true, by decide +kernel⟩,
   ⟨up, 0, .memoryActive, by decide +kernel⟩⟩

theorem meets_DoorbellReads :
    (∃ (s : State) (fn : Nat) (tag : Nat) (r : DoorbellRead), doorbellLive s fn = true ∧ effPoll s (fnOf s fn) = true ∧ LogQuiet s ∧ freeReadTag s.host = some tag ∧ (r = .failed ∨ r = .timeout)) ∧
    (∃ (s : State) (fn : Nat), doorbellLive s fn = true ∧ effPoll s (fnOf s fn) = false ∧ (fnOf s fn).coherent = true ∧ LogQuiet s) ∧
    (∃ (s : State) (fn : Nat) (w0 : Nat) (w1 : Nat) (w2 : Nat) (w3 : Nat), doorbellLive s fn = true ∧ effPoll s (fnOf s fn) = true ∧ (freeReadTag s.host).isSome = true ∧ (fnOf s fn).lostEvents = 0 ∧ (fnOf s fn).lostResults = 0 ∧ wantFetch s fn 0 = false ∧ (fn = 0 → s.admin = none ∧ wantFetch s 0 3 = false) ∧ (∀ e ∈ [(0, w0), (1, w1), (2, w2), (3, w3)], ringLive (ringOf s fn e.1) = true → (ringOf s fn e.1).seen = some e.2 ∧ e.2 ≤ (ringOf s fn e.1).devIdx + (if hostFills e.1 then ringSize (ringOf s fn e.1) else 0))) ∧
    (∃ (s : State) (fn : Nat) (w : Nat), doorbellLive s fn = true ∧ (∀ r, r ≠ 0 → (ringOf s fn r).enable = false) ∧ ringLive (ringOf s fn 0) = true ∧ (fnOf s fn).rings.length = 4 ∧ ringCount (ringOf s fn 0) ≤ w ∧ w ≤ (ringOf s fn 0).devIdx + ringSize (ringOf s fn 0) ∧ effPoll s (fnOf s fn) = true ∧ (freeReadTag s.host).isSome = true) ∧
    (∃ (s : State) (fn : Nat) (w : Nat), doorbellLive s fn = true ∧ (∀ r, r ≠ 0 → (ringOf s fn r).enable = false) ∧ ringLive (ringOf s fn 0) = true ∧ (fnOf s fn).rings.length = 4 ∧ ringCount (ringOf s fn 0) ≤ w ∧ w ≤ (ringOf s fn 0).devIdx + ringSize (ringOf s fn 0) ∧ effPoll s (fnOf s fn) = false ∧ (fnOf s fn).coherent = true) :=
  ⟨⟨setFn { up with host := { up.host with vfNum := 1 } } 1 { liveFn with rings := [liveRing, Ring.reset, Ring.reset, Ring.reset] }, 1, 256, .failed, by decide +kernel⟩,
   ⟨setFn { up with host := { up.host with cacheEn := true } } 0 { liveFn with poll := false, coherent := true }, 0, by decide +kernel⟩,
   ⟨setFn up 0 { liveFn with rings := [{ liveRing with seen := some 5, devIdx := 5 }, { liveRing with seen := some 0 }, { liveRing with seen := some 0 }, { liveRing with seen := some 2, devIdx := 2 }] }, 0, 5, 0, 0, 2, by decide +kernel⟩,
   ⟨setFn { up with host := { up.host with vfNum := 1 } } 1 { liveFn with rings := [liveRing, Ring.reset, Ring.reset, Ring.reset] }, 1, 64, by decide +kernel, fun r h => match r, h with
      | 0, h => absurd rfl h
      | 1, _ => rfl
      | 2, _ => rfl
      | 3, _ => rfl
      | _ + 4, _ => rfl, by decide +kernel, by decide +kernel, by decide +kernel, by decide +kernel, by decide +kernel, by decide +kernel⟩,
   ⟨setFn { up with host := { up.host with vfNum := 1, cacheEn := true } } 1 { liveFn with rings := [liveRing, Ring.reset, Ring.reset, Ring.reset], poll := false, coherent := true }, 1, 64, by decide +kernel, fun r h => match r, h with
      | 0, h => absurd rfl h
      | 1, _ => rfl
      | 2, _ => rfl
      | 3, _ => rfl
      | _ + 4, _ => rfl, by decide +kernel, by decide +kernel, by decide +kernel, by decide +kernel, by decide +kernel, by decide +kernel⟩⟩

theorem meets_DescriptorFetchAndReadTags :
    (∃ (s : State) (fn : Nat) (t0 : Nat) (bytes : List Byte), s.host.reads.find? (fun e => e.2 == .ring fn 0) = some (t0, .ring fn 0) ∧ (ringOf s fn 0).stale = false ∧ ringLive (ringOf s fn 0) = true ∧ (fnOf s fn).rings.length = 4 ∧ bytes.length = 64 ∧ frameCheck (BitVec.ofNat 512 (leNat bytes)) = 0) ∧
    (∃ (s : State) (t0 : Nat) (bytes : List Byte), s.host.reads.find? (fun e => e.2 == .ring 0 3) = some (t0, .ring 0 3) ∧ (ringOf s 0 3).stale = false ∧ ringLive (ringOf s 0 3) = true ∧ (fnOf s 0).rings.length = 4 ∧ bytes.length = 64 ∧ adminCheck (BitVec.ofNat 512 (leNat bytes)) = 0) ∧
    (∃ (s : State) (fn : Nat) (r : Nat) (t0 : Nat), fn < 256 ∧ (r = 0 ∨ r = 3) ∧ (s.host.reads.find? (fun e => e.2 == .ring fn r)) = some (t0, .ring fn r) ∧ (ringOf s fn r).stale = false ∧ (fnOf s fn).rings.length = 4) ∧
    (∃ (s : State) (fn : Nat) (r : Nat), (r = 1 ∨ r = 2) ∧ ringLive (ringOf s fn r) = true ∧ (fnOf s fn).resetting = false ∧ (fnOf s fn).rings.length = 4) ∧
    (∃ (s : State) (tag : Nat) (o : ReadOwner), tabFind s.host.reads tag = some o) ∧
    (∃ (s : State) (tag : Nat), s.host.linkUp = true ∧ tabFind s.host.reads tag = none ∧ tabFind s.host.quarantine tag ≠ some false) ∧
    (∃ (s : State) (tag : Nat), s.host.linkUp = true ∧ tabFind s.host.reads tag = none ∧ tabFind s.host.quarantine tag = some false ∧ LogQuiet s) :=
  ⟨⟨{ setFn up 3 { liveFn with rings := setAt (List.replicate 4 liveRing) 0 { liveRing with fetching := true, seen := some 1 } } with host := { (setFn up 3 { liveFn with rings := setAt (List.replicate 4 liveRing) 0 { liveRing with fetching := true, seen := some 1 } }).host with reads := [(7, .ring 3 0)] } }, 3, 7, leBytes 64 (word [(0, 6), (16, 5)]), by decide +kernel⟩,
   ⟨{ setFn up 0 { liveFn with rings := setAt (List.replicate 4 liveRing) 3 { liveRing with fetching := true, seen := some 1 } } with host := { (setFn up 0 { liveFn with rings := setAt (List.replicate 4 liveRing) 3 { liveRing with fetching := true, seen := some 1 } }).host with reads := [(7, .ring 0 3)] } }, 7, leBytes 64 (word [(0, 0x12)]), by decide +kernel⟩,
   ⟨{ setFn up 255 { liveFn with rings := setAt (List.replicate 4 liveRing) 0 { liveRing with fetching := true, seen := some 1 } } with host := { (setFn up 255 { liveFn with rings := setAt (List.replicate 4 liveRing) 0 { liveRing with fetching := true, seen := some 1 } }).host with reads := [(7, .ring 255 0)] } }, 255, 0, 7, by decide +kernel⟩,
   ⟨setFn up 255 liveFn, 255, 2, by decide +kernel⟩,
   ⟨{ up with host := { up.host with reads := [(1023, .payload 5 0)] } }, 1023, .payload 5 0, by decide +kernel⟩,
   ⟨{ up with host := { up.host with quarantine := [(3, true)] } }, 3, by decide +kernel⟩,
   ⟨{ up with host := { up.host with quarantine := [(3, false)] } }, 3, by decide +kernel⟩⟩

theorem meets_RegisterReads :
    (∃ (s : State) (fn : Nat) (off : Nat), barServed s fn = true ∧ off % 4 = 0 ∧ wideAt s fn off = none ∧ off ∉ [0x50108, 0xC0014, 0xF0014] ∧ s.host.latches.find? (isLatch fn (off - 4)) = none) ∧
    (∃ (s : State) (fn : Nat) (off : Nat) (x : Nat), barServed s fn = true ∧ off % 4 = 0 ∧ wideAt s fn off = some x ∧ off ∉ [0x50108, 0xC0014, 0xF0014]) ∧
    (∃ (s : State) (fn : Nat) (off : Nat) (l : Latch), barServed s fn = true ∧ off % 4 = 0 ∧ 4 ≤ off ∧ wideAt s fn off = none ∧ off ∉ [0x50108, 0xC0014, 0xF0014] ∧ s.host.latches.find? (isLatch fn (off - 4)) = some l) ∧
    (∃ (s : State), barServed s 0 = true ∧ s.host.latches = []) ∧
    (∃ (s : State), barServed s 0 = true ∧ s.host.latches = []) ∧
    (∃ (s : State) (fn : Nat) (off : Nat) (width : Nat) (_ : Option Nat), barServed s fn = true ∧ (width < 32 ∨ off % (width / 8) ≠ 0) ∧ LogQuiet s) ∧
    (∃ (_ : State) (_ : Nat) (off : Nat) (_ : Reg), off % 4 ≠ 0) ∧
    (∃ (s : State) (fn : Nat) (off : Nat), barServed s fn = true ∧ off % 8 = 0 ∧ off ∉ [0x50108, 0xC0010, 0xF0010]) ∧
    (∃ (s : State) (fn : Nat) (_ : Nat), s.host.linkUp = true ∧ barServed s fn = false ∧ fn ≠ jtagFn ∧ fn ≠ serviceFn) ∧
    (∃ (s : State), barServed s 0 = true ∧ s.err.unlocked = true) ∧
    (∃ (s : State), barServed s 0 = true ∧ s.err.unlocked = false) :=
  ⟨⟨up, 0, 0x30000, by decide +kernel⟩,
   ⟨up, 0, 0x30008, 0, by decide +kernel⟩,
   ⟨{ up with host := { up.host with latches := [{ fn := 0, offset := 0x30008, high := 5 }] } }, 0, 0x3000C, { fn := 0, offset := 0x30008, high := 5 }, by decide +kernel⟩,
   ⟨up, by decide +kernel⟩,
   ⟨up, by decide +kernel⟩,
   ⟨up, 0, 0x30002, 32, none, by decide +kernel⟩,
   ⟨up, 3, 0x30002, 0, by decide +kernel⟩,
   ⟨up, 0, 0x30008, by decide +kernel⟩,
   ⟨up, 1, 0, by decide +kernel⟩,
   ⟨{ up with err := { up.err with unlocked := true } }, by decide +kernel⟩,
   ⟨up, by decide +kernel⟩⟩

theorem meets_RegisterWritesAndRings :
    (∃ (s : State) (fn : Nat) (_ : Nat) (_ : Reg), s.host.linkUp = true ∧ barServed s fn = false ∧ fn ≠ jtagFn ∧ fn ≠ serviceFn) ∧
    (∃ (s : State) (v : Reg), barServed s 0 = true ∧ s.core.standby = none ∧ s.core.active = none ∧ s.time.st = .unsync ∧ 4 ≤ v.toNat % 256 ∧ v.toNat % 256 ≤ 160) ∧
    (∃ (s : State) (_ : Reg), barServed s 0 = true ∧ (s.core.standby.isSome = true ∨ s.core.active.isSome = true) ∧ LogQuiet s) ∧
    (∃ (s : State) (v : Reg), barServed s 0 = true ∧ s.core.standby = none ∧ s.core.active = none ∧ (v.toNat % 256 < 4 ∨ 160 < v.toNat % 256) ∧ LogQuiet s) ∧
    (∃ (s : State) (_ : Reg), barServed s 0 = true ∧ s.err.unlocked = false ∧ LogQuiet s) ∧
    (∃ (s : State) (fn : Nat) (_ : Nat), 1 ≤ fn ∧ fn < 256 ∧ barServed s fn = true ∧ anyRing (fnOf s fn) = false) ∧
    (∃ (s : State) (fn : Nat) (r : Nat) (log2 : Nat), barServed s fn = true ∧ r < ringCount? fn ∧ (fnOf s fn).rings.length = 4 ∧ (ringOf s fn r).enable = false ∧ 6 ≤ log2 ∧ log2 ≤ 16 ∧ noDoorbell (fnOf s fn) = false ∧ (r = 2 → (fnOf s fn).heldStops = [] ∧ (fn = 0 → s.admin = none ∧ s.err.held = [] ∧ s.stw.held = []))) ∧
    (∃ (s : State) (fn : Nat) (log2 : Nat) (q : Nat) (reason : Nat), 1 ≤ fn ∧ fn < 256 ∧ barServed s fn = true ∧ (fnOf s fn).rings.length = 4 ∧ (ringOf s fn 2).enable = false ∧ (ringOf s fn 2).fetching = false ∧ 6 ≤ log2 ∧ log2 ≤ 16 ∧ noDoorbell (fnOf s fn) = false ∧ (fnOf s fn).heldStops = [(q, reason)] ∧ (fnOf s fn).lostEvents = 0 ∧ q < 4 ∧ reason < 4) ∧
    (∃ (s : State) (fn : Nat) (r : Nat) (_ : Nat), barServed s fn = true ∧ r < ringCount? fn ∧ (fnOf s fn).rings.length = 4 ∧ (ringOf s fn r).enable = true ∧ LogQuiet s) :=
  ⟨⟨up, 1, 0, 0, by decide +kernel⟩,
   ⟨up, 160, by decide +kernel⟩,
   ⟨running up plan0, 40, by decide +kernel⟩,
   ⟨up, 161, by decide +kernel⟩,
   ⟨up, 1, by decide +kernel⟩,
   ⟨{ up with host := { up.host with vfNum := 255 } }, 255, 0, by decide +kernel⟩,
   ⟨setFn up 0 { liveFn with rings := List.replicate 4 Ring.reset, dbLo := 64 }, 0, 2, 16, by decide +kernel⟩,
   ⟨setFn { up with host := { up.host with vfNum := 255 } } 255 { liveFn with rings := setAt (List.replicate 4 liveRing) 2 Ring.reset, dbLo := 64, heldStops := [(3, 3)] }, 255, 6, 3, 3, by decide +kernel⟩,
   ⟨setFn up 0 liveFn, 0, 3, 31, by decide +kernel⟩⟩

theorem meets_DebugHoldAndKnotWrites :
    (∃ (s : State), barServed s 0 = true ∧ s.err.unlocked = true ∧ otherTenantEnabled s = false) ∧
    (∃ (s : State), barServed s 0 = true) ∧
    (∃ (s : State), barServed s 0 = true ∧ (s.err.unlocked = false ∨ otherTenantEnabled s = true)) ∧
    (∃ (s : State) (k : Nat) (_ : Nat), barServed s 0 = true ∧ s.knot.hold = true ∧ s.err.unlocked = true ∧ k < 32 ∧ s.knot.vals.length = 48) ∧
    (∃ (s : State) (k : Nat) (_ : Nat), barServed s 0 = true ∧ s.knot.hold = true ∧ s.err.unlocked = true ∧ k < 32 ∧ s.knot.vals.length = 48) ∧
    (∃ (s : State) (k : Nat) (v : Nat), barServed s 0 = true ∧ s.knot.hold = true ∧ s.err.unlocked = true ∧ 32 ≤ k ∧ k < 48 ∧ s.knot.vals.length = 48 ∧ knotLimit s k ≠ 0 ∧ (∀ q, q < 8 → (queueOf s q).knot = none) ∧ v % 65536 ≤ knotLimit s k) ∧
    (∃ (s : State) (k : Nat) (v : Nat), barServed s 0 = true ∧ s.knot.hold = true ∧ s.err.unlocked = true ∧ 32 ≤ k ∧ k < 48 ∧ s.knot.vals.length = 48 ∧ knotLimit s k ≠ 0 ∧ (∀ q, q < 8 → (queueOf s q).knot = none) ∧ knotOf s k + v % 65536 ≤ knotLimit s k) ∧
    (∃ (s : State) (k : Nat) (v : Nat), barServed s 0 = true ∧ s.knot.hold = true ∧ s.err.unlocked = true ∧ 32 ≤ k ∧ k < 48 ∧ (knotLimit s k = 0 ∨ knotLimit s k < v % 65536)) ∧
    (∃ (s : State) (_ : Nat) (_ : Nat), barServed s 0 = true ∧ (s.knot.hold = false ∨ s.err.unlocked = false)) :=
  ⟨⟨{ up with err := { up.err with unlocked := true } }, by decide +kernel⟩,
   ⟨up, by decide +kernel⟩,
   ⟨up, by decide +kernel⟩,
   ⟨{ up with knot := { up.knot with hold := true }, err := { up.err with unlocked := true } }, 31, 65536, by decide +kernel⟩,
   ⟨{ up with knot := { up.knot with hold := true }, err := { up.err with unlocked := true } }, 31, 65536, by decide +kernel⟩,
   ⟨{ running up { plan0 with knots := List.replicate 48 (0, 100) } with knot := { up.knot with hold := true }, err := { up.err with unlocked := true } }, 47, 100, by decide +kernel⟩,
   ⟨{ running up { plan0 with knots := List.replicate 48 (0, 100) } with knot := { up.knot with hold := true }, err := { up.err with unlocked := true } }, 32, 100, by decide +kernel⟩,
   ⟨{ running up { plan0 with knots := List.replicate 48 (0, 100) } with knot := { up.knot with hold := true }, err := { up.err with unlocked := true } }, 32, 101, by decide +kernel⟩,
   ⟨up, 0, 0, by decide +kernel⟩⟩

theorem meets_RefusalsAndOpens :
    (∃ (s : State) (fn : Nat) (k : Nat) (d : Desc) (rest : List (Nat × Desc)) (c : Instr), (fnOf s fn).fetched = (k, d) :: rest ∧ (fnOf s fn).resetting = false ∧ tenantCheck s fn d (intakeNow s k) ≠ 0 ∧ dOpcode d = 1 ∧ c = .frame fn d) ∧
    (∃ (s : State) (fn : Nat) (k : Nat) (d : Desc) (rest : List (Nat × Desc)) (c : Instr), (fnOf s fn).fetched = (k, d) :: rest ∧ (fnOf s fn).resetting = false ∧ tenantCheck s fn d (intakeNow s k) ≠ 0 ∧ dOpcode d = 2 ∧ c = .openStream fn d) ∧
    (∃ (s : State) (fn : Nat) (k : Nat) (d : Desc) (rest : List (Nat × Desc)) (c : Instr), (fnOf s fn).fetched = (k, d) :: rest ∧ (fnOf s fn).resetting = false ∧ tenantCheck s fn d (intakeNow s k) ≠ 0 ∧ dOpcode d = 3 ∧ c = .bind fn d) ∧
    (∃ (s : State) (fn : Nat) (k : Nat) (d : Desc) (rest : List (Nat × Desc)) (c : Instr), (fnOf s fn).fetched = (k, d) :: rest ∧ (fnOf s fn).resetting = false ∧ tenantCheck s fn d (intakeNow s k) ≠ 0 ∧ dOpcode d = 4 ∧ c = .pause fn d) ∧
    (∃ (s : State) (fn : Nat) (k : Nat) (d : Desc) (rest : List (Nat × Desc)) (c : Instr), (fnOf s fn).fetched = (k, d) :: rest ∧ (fnOf s fn).resetting = false ∧ tenantCheck s fn d (intakeNow s k) ≠ 0 ∧ dOpcode d = 5 ∧ c = .resume fn d) ∧
    (∃ (s : State) (fn : Nat) (k : Nat) (d : Desc) (rest : List (Nat × Desc)) (c : Instr), (fnOf s fn).fetched = (k, d) :: rest ∧ (fnOf s fn).resetting = false ∧ tenantCheck s fn d (intakeNow s k) ≠ 0 ∧ dOpcode d = 6 ∧ c = .close fn d) ∧
    (∃ (s : State) (fn : Nat) (k : Nat) (i : Nat) (d : Desc) (rest : List (Nat × Desc)), (fnOf s fn).fetched = (k, d) :: rest ∧ (fnOf s fn).resetting = false ∧ dOpcode d = 2 ∧ tenantCheck s fn d (intakeNow s k) = 0 ∧ freeId s = some i) :=
  ⟨⟨taken 1 (desc [(0, 1), (16, 5)]), 1, 0, desc [(0, 1), (16, 5)], [], .frame 1 (desc [(0, 1), (16, 5)]), by decide +kernel⟩,
   ⟨taken 1 (desc [(0, 2), (16, 5)]), 1, 0, desc [(0, 2), (16, 5)], [], .openStream 1 (desc [(0, 2), (16, 5)]), by decide +kernel⟩,
   ⟨taken 1 (desc [(0, 3), (16, 5)]), 1, 0, desc [(0, 3), (16, 5)], [], .bind 1 (desc [(0, 3), (16, 5)]), by decide +kernel⟩,
   ⟨taken 1 (desc [(0, 4), (16, 5)]), 1, 0, desc [(0, 4), (16, 5)], [], .pause 1 (desc [(0, 4), (16, 5)]), by decide +kernel⟩,
   ⟨taken 1 (desc [(0, 5), (16, 5)]), 1, 0, desc [(0, 5), (16, 5)], [], .resume 1 (desc [(0, 5), (16, 5)]), by decide +kernel⟩,
   ⟨taken 1 (desc [(0, 6), (16, 5)]), 1, 0, desc [(0, 6), (16, 5)], [], .close 1 (desc [(0, 6), (16, 5)]), by decide +kernel⟩,
   ⟨taken 1 (desc [(0, 2)]), 1, 0, 0, desc [(0, 2)], [], by decide +kernel⟩⟩

theorem meets_ControlDescriptorsWaitForTheirBoundary :
    (∃ (s : State) (fn : Nat) (k : Nat) (d : Desc) (rest : List (Nat × Desc)), (fnOf s fn).fetched = (k, d) :: rest ∧ (fnOf s fn).resetting = false ∧ tenantCheck s fn d (intakeNow s k) = 0 ∧ dOpcode d = 3 ∧ ((streamOf s (dStream d)).vst = .opened ∨ (streamOf s (dStream d)).vst = .paused) ∧ bindCheck s (dStream d) (dArg0 d) (intakeNow s k) = 0) ∧
    (∃ (s : State) (fn : Nat) (k : Nat) (d : Desc) (rest : List (Nat × Desc)), (fnOf s fn).fetched = (k, d) :: rest ∧ (fnOf s fn).resetting = false ∧ tenantCheck s fn d (intakeNow s k) = 0 ∧ dOpcode d = 4 ∧ (streamOf s (dStream d)).vst ≠ .closing ∧ (streamOf s (dStream d)).vst ≠ .closed) ∧
    (∃ (s : State) (fn : Nat) (k : Nat) (d : Desc) (rest : List (Nat × Desc)), (fnOf s fn).fetched = (k, d) :: rest ∧ (fnOf s fn).resetting = false ∧ tenantCheck s fn d (intakeNow s k) = 0 ∧ dOpcode d = 5 ∧ ((streamOf s (dStream d)).vst = .paused ∨ (streamOf s (dStream d)).vst = .bound)) ∧
    (∃ (s : State) (fn : Nat) (k : Nat) (d : Desc) (rest : List (Nat × Desc)), (fnOf s fn).fetched = (k, d) :: rest ∧ (fnOf s fn).resetting = false ∧ tenantCheck s fn d (intakeNow s k) = 0 ∧ dOpcode d = 6 ∧ (streamOf s (dStream d)).vst ≠ .closing ∧ (streamOf s (dStream d)).vst ≠ .closed) :=
  ⟨⟨withStream (running (keyed (taken 1 (desc [(0, 3), (16, 5), (128, 9)]))) plan0) 5 { boundStream with st := .opened, vst := .opened, vmodel := 0 }, 1, 0, desc [(0, 3), (16, 5), (128, 9)], [], by decide +kernel⟩,
   ⟨withStream (running (keyed (taken 1 (desc [(0, 4), (16, 5), (128, 0)]))) plan0) 5 { boundStream with st := .bound, vst := .bound, vmodel := 0 }, 1, 0, desc [(0, 4), (16, 5), (128, 0)], [], by decide +kernel⟩,
   ⟨withStream (running (keyed (taken 1 (desc [(0, 5), (16, 5), (128, 0)]))) plan0) 5 { boundStream with st := .paused, vst := .paused, vmodel := 0 }, 1, 0, desc [(0, 5), (16, 5), (128, 0)], [], by decide +kernel⟩,
   ⟨withStream (running (keyed (taken 1 (desc [(0, 6), (16, 5), (128, 0)]))) plan0) 5 { boundStream with st := .opened, vst := .opened, vmodel := 0 }, 1, 0, desc [(0, 6), (16, 5), (128, 0)], [], by decide +kernel⟩⟩

theorem meets_FramesAndTheirPayloads :
    (∃ (s : State) (fn : Nat) (k : Nat) (d : Desc) (rest : List (Nat × Desc)), (fnOf s fn).fetched = (k, d) :: rest ∧ (fnOf s fn).resetting = false ∧ tenantCheck s fn d (intakeNow s k) = 0 ∧ dOpcode d = 1 ∧ (streamOf s (dStream d)).vst = .bound ∧ seqAhead (dSeq d) (streamOf s (dStream d)).nextSeq < 32768 ∧ frameRoom (streamOf s (dStream d)) (intakeNow s k) = 0) ∧
    (∃ (s : State) (i : Nat) (q : Nat) (_ : List Byte) (f : Pending), readOut s (.payload i q) = true ∧ fetching s i q = some f) ∧
    (∃ (s : State) (i : Nat) (q : Nat) (f : Pending), readOut s (.payload i q) = true ∧ fetching s i q = some f ∧ (streamOf s i).ending = none) ∧
    (∃ (s : State) (i : Nat) (q : Nat), readOut s (.payload i q) = true ∧ (streamOf s i).ending.isSome = true) :=
  ⟨⟨withStream (taken 1 (desc [(0, 1), (16, 5), (64, 64)])) 5 boundStream, 1, 0, desc [(0, 1), (16, 5), (64, 64)], [], by decide +kernel⟩,
   ⟨{ withStream up 5 { boundStream with pending := [{ frame0 with payload := none }] } with host := { up.host with reads := [(3, .payload 5 0)] } }, 5, 0, [7], { frame0 with payload := none }, by decide +kernel⟩,
   ⟨{ withStream up 5 { boundStream with pending := [{ frame0 with payload := none }] } with host := { up.host with reads := [(3, .payload 5 0)] } }, 5, 0, { frame0 with payload := none }, by decide +kernel⟩,
   ⟨{ withStream up 5 { boundStream with pending := [{ frame0 with payload := none }], ending := some 3 } with host := { up.host with reads := [(3, .payload 5 0)] } }, 5, 0, by decide +kernel⟩⟩

theorem meets_AdminDoneEntry :
    (∃ (s : State) (d : Desc), AdminMay s d 1) ∧
    (∃ (s : State) (_ : Desc) (st : Nat) (dt : Nat), (fnOf s 0).lostEvents = 0 ∧ eventRoom s 0 = true ∧ st < 256 ∧ dt < 2 ^ 192) ∧
    (∃ (s : State) (_ : Desc) (_ : Nat) (_ : Nat), (fnOf s 0).lostEvents = 0 ∧ eventRoom s 0 = false) :=
  ⟨⟨adm up (desc [(0, 1)]), desc [(0, 1)], by decide +kernel⟩,
   ⟨adm up 0, 0, 255, 2 ^ 192 - 1, by decide +kernel⟩,
   ⟨up, 0, 0, 0, by decide +kernel⟩⟩

theorem meets_PlanCommands :
    (∃ (s : State) (d : Desc) (_ : DmaRead), AdminMay s d 0x10 ∧ s.core.armed = true) ∧
    (∃ (s : State) (d : Desc) (b : List Byte) (p : Plan), BufferMay s d 0x10 ∧ s.core.armed = false ∧ b.length = aLen d ∧ planCheck s (aLen d) b = .ok p) ∧
    (∃ (s : State) (d : Desc) (b : List Byte) (e : Nat × Nat), BufferMay s d 0x10 ∧ s.core.armed = false ∧ b.length = aLen d ∧ planCheck s (aLen d) b = .error e) ∧
    (∃ (s : State) (d : Desc), BufferMay s d 0x10 ∧ s.core.armed = false) ∧
    (∃ (s : State) (d : Desc) (_ : DmaRead), AdminMay s d 0x10 ∧ s.core.armed = false ∧ freeReadTag s.host = none) ∧
    (∃ (s : State) (d : Desc), AdminMay s d 0x11 ∧ commitCheck s (aArg0 d) = 0 ∧ standbyPartners s = []) ∧
    (∃ (s : State) (d : Desc), AdminMay s d 0x11 ∧ commitCheck s (aArg0 d) = 0 ∧ standbyPartners s ≠ [] ∧ s.core.heard = []) ∧
    (∃ (s : State) (d : Desc), AdminMay s d 0x11 ∧ commitCheck s (aArg0 d) ≠ 0) ∧
    (∃ (s : State) (d : Desc), AdminMay s d 0x12 ∧ s.core.standby.isSome = true ∧ cancelTooLate s = false) ∧
    (∃ (s : State) (d : Desc), AdminMay s d 0x12 ∧ s.core.standby = none) ∧
    (∃ (s : State) (d : Desc), AdminMay s d 0x12 ∧ s.core.standby.isSome = true ∧ cancelTooLate s = true) :=
  ⟨⟨adm ({ up with core := { up.core with armed := true } }) (desc [(0, 16)]), desc [(0, 16)], .error, by decide +kernel⟩,
   ⟨adm (up) (desc [(0, 16), (96, 4608)]), desc [(0, 16), (96, 4608)], planImage0, okVal plan0 (planCheck up 4608 planImage0), by decide +kernel, by decide +kernel, by decide +kernel, ok_of (by decide +kernel)⟩,
   ⟨adm (up) (desc [(0, 16), (96, 4096)]), desc [(0, 16), (96, 4096)], List.replicate 4096 0, (0xC0, 0), by decide +kernel, by decide +kernel, by decide +kernel, error_is (by decide +kernel)⟩,
   ⟨adm (up) (desc [(0, 16), (96, 4096)]), desc [(0, 16), (96, 4096)], by decide +kernel⟩,
   ⟨adm ({ up with host := { up.host with quarantine := allTags.map (fun t => (t, true)) } }) (desc [(0, 16), (96, 4096)]), desc [(0, 16), (96, 4096)], .timeout, by decide +kernel, by decide +kernel, no_tag _ rfl⟩,
   ⟨adm ({ ticking up with core := { up.core with standby := some plan0 } }) (desc [(0, 17), (192, 2)]), desc [(0, 17), (192, 2)], by decide +kernel⟩,
   ⟨adm ({ { ticking up with core := { up.core with standby := some { plan0 with rings := [ring0] } } } with link := { up.link with valid := true } }) (desc [(0, 17), (192, 1000)]), desc [(0, 17), (192, 1000)], by decide +kernel⟩,
   ⟨adm (up) (desc [(0, 17), (192, 2)]), desc [(0, 17), (192, 2)], by decide +kernel⟩,
   ⟨adm ({ ticking up with core := { up.core with standby := some plan0 } }) (desc [(0, 18)]), desc [(0, 18)], by decide +kernel⟩,
   ⟨adm (up) (desc [(0, 18)]), desc [(0, 18)], by decide +kernel⟩,
   ⟨adm ({ ticking up with core := { up.core with standby := some plan0, armed := true, commitN := 1 }, time := { (ticking up).time with now := 9900000 } }) (desc [(0, 18)]), desc [(0, 18)], by decide +kernel⟩⟩

theorem meets_KeySlots :
    (∃ (s : State) (d : Desc) (b : List Byte) (kek : List Byte) (w : List Byte) (pt : List Byte), BufferMay s d 0x20 ∧ b.length = aLen d ∧ (bitsOf (aArg0 d) 18 16 = 7 ∨ (keyOf s (256 + bitsOf (aArg0 d) 18 16)).isSome = true) ∧ keyInUse s (aArg0 d % 512) = false ∧ keyWrap s (aArg0 d % 512) (bitsOf (aArg0 d) 18 16) b = some (kek, w) ∧ kwUnwrap kek w = some pt ∧ keyPlainOk s (aArg0 d % 512) pt = true ∧ keySpareOk (bitsOf (aArg0 d) 18 16) b = true ∧ (fnOf s 0).lostEvents = 0) ∧
    (∃ (s : State) (d : Desc) (_ : DmaRead), AdminMay s d 0x20 ∧ bitsOf (aArg0 d) 18 16 ≠ 7 ∧ keyOf s (256 + bitsOf (aArg0 d) 18 16) = none) ∧
    (∃ (s : State) (d : Desc) (_ : DmaRead), AdminMay s d 0x20 ∧ (bitsOf (aArg0 d) 18 16 = 7 ∨ (keyOf s (256 + bitsOf (aArg0 d) 18 16)).isSome = true) ∧ keyInUse s (aArg0 d % 512) = true) ∧
    (∃ (s : State) (d : Desc) (b : List Byte) (kek : List Byte) (w : List Byte), BufferMay s d 0x20 ∧ b.length = aLen d ∧ (bitsOf (aArg0 d) 18 16 = 7 ∨ (keyOf s (256 + bitsOf (aArg0 d) 18 16)).isSome = true) ∧ keyInUse s (aArg0 d % 512) = false ∧ keyWrap s (aArg0 d % 512) (bitsOf (aArg0 d) 18 16) b = some (kek, w) ∧ kwUnwrap kek w = none) ∧
    (∃ (s : State) (d : Desc) (b : List Byte) (kek : List Byte) (w : List Byte) (pt : List Byte), BufferMay s d 0x20 ∧ b.length = aLen d ∧ (bitsOf (aArg0 d) 18 16 = 7 ∨ (keyOf s (256 + bitsOf (aArg0 d) 18 16)).isSome = true) ∧ keyInUse s (aArg0 d % 512) = false ∧ keyWrap s (aArg0 d % 512) (bitsOf (aArg0 d) 18 16) b = some (kek, w) ∧ kwUnwrap kek w = some pt ∧ (keyPlainOk s (aArg0 d % 512) pt && keySpareOk (bitsOf (aArg0 d) 18 16) b) = false) ∧
    (∃ (s : State) (d : Desc), AdminMay s d 0x21 ∧ keyInUse s (aArg0 d) = false) ∧
    (∃ (s : State) (d : Desc), AdminMay s d 0x21 ∧ keyInUse s (aArg0 d) = true) :=
  ⟨⟨adm (setKey up 256 { key := List.replicate 32 0, keyId := 1, owner := 255, salt := 0 }) (desc [(0, 32), (96, 64), (192, 511)]), desc [(0, 32), (96, 64), (192, 511)], wrapped0, List.replicate 32 0, bytesAt wrapped0 0 48, plain0, by decide +kernel, by decide +kernel, by decide +kernel, by decide +kernel, by decide +kernel, unwrap0, by decide +kernel, by decide +kernel, by decide +kernel⟩,
   ⟨adm (up) (desc [(0, 32), (96, 64), (192, 196610)]), desc [(0, 32), (96, 64), (192, 196610)], .timeout, by decide +kernel⟩,
   ⟨adm (running up plan0) (desc [(0, 32), (96, 64), (192, 458754)]), desc [(0, 32), (96, 64), (192, 458754)], .timeout, by decide +kernel⟩,
   ⟨adm (setKey up 256 { key := List.replicate 32 0, keyId := 1, owner := 255, salt := 0 }) (desc [(0, 32), (96, 64), (192, 511)]), desc [(0, 32), (96, 64), (192, 511)], List.replicate 64 0, List.replicate 32 0, List.replicate 48 0, by decide +kernel⟩,
   ⟨adm (setKey up 256 { key := List.replicate 32 0, keyId := 1, owner := 255, salt := 0 }) (desc [(0, 32), (96, 64), (192, 511)]), desc [(0, 32), (96, 64), (192, 511)], wrapped0.take 48 ++ List.replicate 16 1, List.replicate 32 0, bytesAt wrapped0 0 48, plain0, by decide +kernel, by decide +kernel, by decide +kernel, by decide +kernel, by decide +kernel, unwrap0, by decide +kernel⟩,
   ⟨adm (up) (desc [(0, 33), (192, 511)]), desc [(0, 33), (192, 511)], by decide +kernel⟩,
   ⟨adm (running up plan0) (desc [(0, 33), (192, 2)]), desc [(0, 33), (192, 2)], by decide +kernel⟩⟩

theorem meets_TenantRecords :
    (∃ (s : State) (d : Desc) (b : List Byte), BufferMay s d 0x22 ∧ b.length = aLen d ∧ tsBad s b = true) ∧
    (∃ (s : State) (d : Desc) (b : List Byte), BufferMay s d 0x22 ∧ b.length = aLen d ∧ tsBad s b = false ∧ 65536 < tsSum s b) ∧
    (∃ (s : State) (d : Desc) (b : List Byte), BufferMay s d 0x22 ∧ b.length = aLen d ∧ tsBad s b = false ∧ tsSum s b ≤ 65536 ∧ tsEnabled b = true ∧ (fnOf s 0).lostEvents = 0) ∧
    (∃ (s : State) (d : Desc) (b : List Byte), BufferMay s d 0x22 ∧ b.length = aLen d ∧ tsBad s b = false ∧ tsSum s b ≤ 65536 ∧ tsEnabled b = false ∧ (tenOf s (tsTenant b)).enabled = true ∧ s.time.st ≠ .unsync) ∧
    (∃ (s : State) (d : Desc) (b : List Byte), BufferMay s d 0x22 ∧ b.length = aLen d ∧ tsBad s b = false ∧ tsSum s b ≤ 65536 ∧ tsEnabled b = false ∧ (tenOf s (tsTenant b)).enabled = true ∧ s.time.st = .unsync) ∧
    (∃ (s : State) (d : Desc), AdminMay s d 0x23 ∧ bitsOf (aArg0 d) 9 8 = 0 ∧ s.time.st = .unsync) ∧
    (∃ (s : State) (d : Desc), AdminMay s d 0x23 ∧ bitsOf (aArg0 d) 9 8 = 1 ∧ s.time.st = .unsync) ∧
    (∃ (s : State) (d : Desc), AdminMay s d 0x23 ∧ bitsOf (aArg0 d) 9 8 = 2 ∧ s.time.st = .unsync) ∧
    (∃ (s : State) (d : Desc) (a : Nat) (c : Instr), AdminMay s d 0x23 ∧ bitsOf (aArg0 d) 9 8 = a ∧ s.time.st ≠ .unsync ∧ (a = 0 ∧ c = .tenantQuarantine d ∨ a = 1 ∧ c = .tenantRelease d ∨ a = 2 ∧ c = .tenantEvict d)) :=
  ⟨⟨adm (up) (desc [(0, 34), (96, 64)]), desc [(0, 34), (96, 64)], leBytes 64 (word [(8, 4)]), by decide +kernel⟩,
   ⟨adm (setTen { up with host := { up.host with vfNum := 3 } } 2 { TenantRec.reset with enabled := true, streamQuota := 1 }) (desc [(0, 34), (96, 64)]), desc [(0, 34), (96, 64)], leBytes 64 (word [(0, 3), (8, 1), (16, 15), (32, 65536), (64, 65536), (96, 1048576)]), by decide +kernel⟩,
   ⟨adm ({ up with host := { up.host with vfNum := 3 } }) (desc [(0, 34), (96, 64)]), desc [(0, 34), (96, 64)], leBytes 64 (word [(0, 3), (8, 1), (16, 15), (32, 65536), (64, 65536), (96, 1048576)]), by decide +kernel⟩,
   ⟨adm (setTen (ticking up) 3 { TenantRec.reset with enabled := true }) (desc [(0, 34), (96, 64)]), desc [(0, 34), (96, 64)], leBytes 64 (word [(0, 3), (96, 1)]), by decide +kernel⟩,
   ⟨adm (setTen up 3 { TenantRec.reset with enabled := true }) (desc [(0, 34), (96, 64)]), desc [(0, 34), (96, 64)], leBytes 64 (word [(0, 3), (96, 1)]), by decide +kernel⟩,
   ⟨adm (up) (desc [(0, 35), (192, 255)]), desc [(0, 35), (192, 255)], by decide +kernel⟩,
   ⟨adm (up) (desc [(0, 35), (192, 259)]), desc [(0, 35), (192, 259)], by decide +kernel⟩,
   ⟨adm (up) (desc [(0, 35), (192, 515)]), desc [(0, 35), (192, 515)], by decide +kernel⟩,
   ⟨adm (ticking up) (desc [(0, 35), (192, 515)]), desc [(0, 35), (192, 515)], 2, .tenantEvict (desc [(0, 35), (192, 515)]), by decide +kernel⟩⟩

theorem meets_HostKnotCommands :
    (∃ (s : State) (d : Desc), AdminMay s d 0x30 ∧ aArg1 d = 0 ∧ (runningPlan s).isSome = true ∧ bitsOf (aArg0 d) 5 0 < 32 ∧ s.knot.vals.length = 48) ∧
    (∃ (s : State) (d : Desc), AdminMay s d 0x30 ∧ aArg1 d = 0 ∧ (runningPlan s).isSome = true ∧ hostSignalBad s (bitsOf (aArg0 d) 5 0) (bitsOf (aArg0 d) 31 16) = true) ∧
    (∃ (s : State) (d : Desc), AdminMay s d 0x30 ∧ planComes s (aArg1 d) = true ∧ aArg1 d ≠ 0 ∧ s.tick.index + 1 ≤ aArg1 d ∧ aArg1 d ≤ s.tick.index + 8) ∧
    (∃ (s : State) (d : Desc), AdminMay s d 0x30 ∧ planComes s (aArg1 d) = true ∧ aArg1 d ≠ 0 ∧ (aArg1 d < s.tick.index + 1 ∨ s.tick.index + 8 < aArg1 d)) ∧
    (∃ (s : State) (d : Desc), AdminMay s d 0x30 ∧ (aArg1 d = 0 ∧ runningPlan s = none ∨ aArg1 d ≠ 0 ∧ planComes s (aArg1 d) = false)) ∧
    (∃ (s : State) (d : Desc), AdminMay s d 0x31 ∧ aArg0 d = 1) ∧
    (∃ (s : State) (d : Desc) (b : List Byte), AdminMay s d 0x31 ∧ aArg0 d = 0 ∧ s.knot.dumpUnread = true ∧ s.knot.dump = some b) ∧
    (∃ (s : State) (d : Desc) (_ : Bool), AdminMay s d 0x31 ∧ aArg0 d = 0 ∧ s.knot.dumpUnread = false) ∧
    (∃ (s : State) (d : Desc), AdminMay s d 0x31 ∧ (aArg0 d = 1 ∨ s.knot.dumpUnread = true)) :=
  ⟨⟨adm (running up plan0) (desc [(0, 48), (192, 4294901791)]), desc [(0, 48), (192, 4294901791)], by decide +kernel⟩,
   ⟨adm (running up plan0) (desc [(0, 48), (192, 65568)]), desc [(0, 48), (192, 65568)], by decide +kernel⟩,
   ⟨adm (running up plan0) (desc [(0, 48), (192, 65539), (256, 8)]), desc [(0, 48), (192, 65539), (256, 8)], by decide +kernel⟩,
   ⟨adm (running up plan0) (desc [(0, 48), (192, 65539), (256, 9)]), desc [(0, 48), (192, 65539), (256, 9)], by decide +kernel⟩,
   ⟨adm (up) (desc [(0, 48), (192, 4294901791)]), desc [(0, 48), (192, 4294901791)], by decide +kernel⟩,
   ⟨adm (up) (desc [(0, 49), (96, 4096), (192, 1)]), desc [(0, 49), (96, 4096), (192, 1)], by decide +kernel⟩,
   ⟨adm ({ up with knot := { up.knot with dump := some [1], dumpUnread := true } }) (desc [(0, 49), (96, 4096)]), desc [(0, 49), (96, 4096)], [1], by decide +kernel⟩,
   ⟨adm (up) (desc [(0, 49), (96, 4096)]), desc [(0, 49), (96, 4096)], true, by decide +kernel⟩,
   ⟨adm (up) (desc [(0, 49), (96, 4096), (192, 1)]), desc [(0, 49), (96, 4096), (192, 1)], by decide +kernel⟩⟩

theorem meets_PowerAndDebugSettings :
    (∃ (s : State) (d : Desc) (b : List Byte), BufferMay s d 0x50 ∧ b.length = aLen d ∧ ppBad b = false ∧ ppFloorOk s (leAt b 0 2) = true ∧ s.time.st ≠ .unsync) ∧
    (∃ (s : State) (d : Desc) (b : List Byte), BufferMay s d 0x50 ∧ b.length = aLen d ∧ ppBad b = false ∧ ppFloorOk s (leAt b 0 2) = true ∧ s.time.st = .unsync) ∧
    (∃ (s : State) (d : Desc) (b : List Byte), BufferMay s d 0x50 ∧ b.length = aLen d ∧ ppBad b = true) ∧
    (∃ (s : State) (d : Desc) (b : List Byte), BufferMay s d 0x50 ∧ b.length = aLen d ∧ ppBad b = false ∧ ppFloorOk s (leAt b 0 2) = false) ∧
    (∃ (s : State) (w : Nat), s.boot.phase = .firmware ∧ 350 ≤ w ∧ w ≤ 760) ∧
    (∃ (s : State) (w : Nat), s.boot.phase = .firmware ∧ (w < 350 ∨ 760 < w)) ∧
    (∃ (s : State) (_ : Bool), s.boot.phase = .firmware) ∧
    (∃ (s : State) (d : Desc) (b : List Byte), BufferMay s d 0x70 ∧ aArg0 d = 1 ∧ b.length = aLen d) ∧
    (∃ (s : State) (d : Desc), BufferMay s d 0x70 ∧ aArg0 d = 1) ∧
    (∃ (s : State) (d : Desc), AdminMay s d 0x70 ∧ aArg0 d = 0) :=
  ⟨⟨adm (ticking up) (desc [(0, 80), (96, 64)]), desc [(0, 80), (96, 64)], leBytes 64 (word [(0, 300), (16, 8), (32, 1)]), by decide +kernel⟩,
   ⟨adm (up) (desc [(0, 80), (96, 64)]), desc [(0, 80), (96, 64)], leBytes 64 (word [(0, 50), (16, 1), (32, 65535)]), by decide +kernel⟩,
   ⟨adm (up) (desc [(0, 80), (96, 64)]), desc [(0, 80), (96, 64)], List.replicate 64 0, by decide +kernel⟩,
   ⟨adm (running up { plan0 with energyFixed := 501 }) (desc [(0, 80), (96, 64)]), desc [(0, 80), (96, 64)], leBytes 64 (word [(0, 300), (16, 8), (32, 1)]), by decide +kernel⟩,
   ⟨up, 350, by decide +kernel⟩,
   ⟨up, 761, by decide +kernel⟩,
   ⟨up, true, by decide +kernel⟩,
   ⟨adm (up) (desc [(0, 112), (96, 256), (192, 1)]), desc [(0, 112), (96, 256), (192, 1)], List.replicate 256 0, by decide +kernel⟩,
   ⟨adm (up) (desc [(0, 112), (96, 256), (192, 1)]), desc [(0, 112), (96, 256), (192, 1)], by decide +kernel⟩,
   ⟨adm (up) (desc [(0, 112)]), desc [(0, 112)], by decide +kernel⟩⟩

theorem meets_LogSliceAndWarmReset :
    (∃ (s : State) (d : Desc), AdminMay s d 0x72 ∧ aArg1 d = 0 ∧ (fnOf s 0).lostEvents = 0 ∧ (freeReadTag s.host).isSome = true) ∧
    (∃ (s : State) (d : Desc), AdminMay s d 0x72 ∧ aArg1 d = 1) ∧
    (∃ (s : State) (d : Desc), AdminMay s d 0x72 ∧ aArg1 d = 3 ∧ s.boot.hbmOk = true) ∧
    (∃ (s : State) (d : Desc) (_ : Bool), AdminMay s d 0x72 ∧ aArg1 d = 2 ∧ s.err.pmUnread = false) ∧
    (∃ (s : State) (d : Desc) (_ : Bool), AdminMay s d 0x72 ∧ aArg1 d = 3 ∧ s.boot.hbmOk = false) ∧
    (∃ (s : State) (d : Desc) (_ : Bool), AdminMay s d 0x72 ∧ aArg1 d < 2) ∧
    (∃ (s : State) (d : Desc) (b : List Byte), BufferMay s d 0x80 ∧ b.length = aLen d ∧ sliceCheck s (aLen d) b = 0) ∧
    (∃ (s : State) (d : Desc) (b : List Byte), BufferMay s d 0x80 ∧ b.length = aLen d ∧ sliceCheck s (aLen d) b ≠ 0) ∧
    (∃ (s : State) (d : Desc), AdminMay s d 0x71 ∧ s.boot.warm = none) :=
  ⟨⟨adm (up) (desc [(0, 114), (96, 64)]), desc [(0, 114), (96, 64)], by decide +kernel⟩,
   ⟨adm (up) (desc [(0, 114), (96, 64), (256, 1)]), desc [(0, 114), (96, 64), (256, 1)], by decide +kernel⟩,
   ⟨adm (up) (desc [(0, 114), (96, 64), (256, 3)]), desc [(0, 114), (96, 64), (256, 3)], by decide +kernel⟩,
   ⟨adm (up) (desc [(0, 114), (96, 64), (256, 2)]), desc [(0, 114), (96, 64), (256, 2)], true, by decide +kernel⟩,
   ⟨adm ({ up with boot := { up.boot with hbmOk := false } }) (desc [(0, 114), (96, 64), (256, 3)]), desc [(0, 114), (96, 64), (256, 3)], false, by decide +kernel⟩,
   ⟨adm (up) (desc [(0, 114), (96, 64), (256, 1)]), desc [(0, 114), (96, 64), (256, 1)], true, by decide +kernel⟩,
   ⟨adm (linked up) (desc [(0, 128), (96, 64)]), desc [(0, 128), (96, 64)], leBytes 64 (word [(0, 1), (16, 128), (64, 2047)]), by decide +kernel⟩,
   ⟨adm (up) (desc [(0, 128), (96, 64)]), desc [(0, 128), (96, 64)], List.replicate 64 0, by decide +kernel⟩,
   ⟨adm (up) (desc [(0, 113)]), desc [(0, 113)], by decide +kernel⟩⟩

theorem meets_CommonInstructions :
    (∃ (s : State) (q : Nat) (w : Insn), InsnMay s q w 0x00 ∧ gateOpen s (gateOf w) = true) ∧
    (∃ (s : State) (q : Nat) (w : Insn), InsnMay s q w 0x01 ∧ gateOpen s (gateOf w) = true ∧ (queueOf s q).flights = []) ∧
    (∃ (s : State) (q : Nat) (w : Insn), InsnMay s q w 0x01 ∧ gateOpen s (gateOf w) = true ∧ (queueOf s q).flights ≠ []) ∧
    (∃ (s : State) (q : Nat) (w : Insn), InsnMay s q w 0x03 ∧ gateOpen s (gateOf w) = true) ∧
    (∃ (s : State) (q : Nat) (w : Insn), InsnMay s q w 0x05 ∧ gateOpen s (gateOf w) = true) ∧
    (∃ (s : State) (q : Nat), (queueOf s q).st = .waitTime ∧ beforeBoundary s (queueOf s q).time = true) ∧
    (∃ (s : State) (q : Nat) (w : Insn), InsnMay s q w 0x0F ∧ gateOpen s (gateOf w) = true) ∧
    (∃ (s : State) (q : Nat) (op : Nat) (w : Insn) (c : Instr), InsnMay s q w op ∧ gateOpen s (gateOf w) = false ∧ (op = 0x00 ∧ c = .nopInstruction q w ∨ op = 0x01 ∧ c = .fence q w ∨ op = 0x02 ∧ c = .signal q w ∨ op = 0x03 ∧ c = .wait q w ∨ op = 0x04 ∧ c = .release q w ∨ op = 0x05 ∧ c = .waitTime q w)) ∧
    (∃ (s : State) (q : Nat) (op : Nat) (w : Insn) (c : Instr), mayIssue s q w = true ∧ opcodeOf w = op ∧ s.mem.poolBad.any (unitIn [(insnAddr s q (queueOf s q).head, 16)]) = true ∧ (op = 0x00 ∧ c = .nopInstruction q w ∨ op = 0x01 ∧ c = .fence q w ∨ op = 0x02 ∧ c = .signal q w ∨ op = 0x03 ∧ c = .wait q w ∨ op = 0x04 ∧ c = .release q w ∨ op = 0x05 ∧ c = .waitTime q w ∨ op = 0x0F ∧ c = .endQueue q w)) :=
  ⟨⟨runs (up) 7 (insn [(0, 0)]), 7, insn [(0, 0)], by decide +kernel⟩,
   ⟨runs (up) 0 (insn [(0, 1)]), 0, insn [(0, 1)], by decide +kernel⟩,
   ⟨flying (runs (up) 3 (insn [(0, 1)])) 3 (flight0 .plain), 3, insn [(0, 1)], by decide +kernel⟩,
   ⟨runs (up) 1 (insn [(0, 3), (16, 47), (32, 4095)]), 1, insn [(0, 3), (16, 47), (32, 4095)], by decide +kernel⟩,
   ⟨runs (ticking up) 1 (insn [(0, 5), (16, 1000)]), 1, insn [(0, 5), (16, 1000)], by decide +kernel⟩,
   ⟨setQueue (ticking up) 2 { Queue.reset with st := .waitTime, time := 9499999 }, 2, by decide +kernel⟩,
   ⟨runs (up) 2 (insn [(0, 15)]), 2, insn [(0, 15)], by decide +kernel⟩,
   ⟨runs (up) 2 (insn [(0, 4), (8, 5)]), 2, 4, insn [(0, 4), (8, 5)], .release 2 (insn [(0, 4), (8, 5)]), by decide +kernel⟩,
   ⟨{ runs (up) 2 (insn [(0, 4)]) with mem := { up.mem with poolBad := [insnAddr (runs (up) 2 (insn [(0, 4)])) 2 0 / 64] } }, 2, 4, insn [(0, 4)], .release 2 (insn [(0, 4)]), by decide +kernel⟩⟩

theorem meets_SignalsReleasesAndCompletions :
    (∃ (s : State) (q : Nat) (w : Insn), InsnMay s q w 0x02 ∧ gateOpen s (gateOf w) = true ∧ bitAt w.toNat 22 = false ∧ fieldOf w 21 16 < 32 ∧ s.knot.vals.length = 48) ∧
    (∃ (s : State) (q : Nat) (w : Insn), InsnMay s q w 0x02 ∧ gateOpen s (gateOf w) = true ∧ bitAt w.toNat 22 = true) ∧
    (∃ (s : State) (s' : State) (q : Nat) (h : Nat) (w : Insn), InsnMay s q w 0x04 ∧ gateOpen s (gateOf w) = true ∧ (queueOf s q).flights = [] ∧ HandleTaken s q w 16 h s' ∧ (slotOf s h).count ≠ 0) ∧
    (∃ (s : State) (s' : State) (q : Nat) (h : Nat) (w : Insn), InsnMay s q w 0x04 ∧ gateOpen s (gateOf w) = true ∧ (queueOf s q).flights = [] ∧ HandleTaken s q w 16 h s' ∧ (slotOf s h).count = 0) ∧
    (∃ (s : State) (q : Nat) (hq : Nat) (h : Nat) (fl : Flight), s.core.halted = false ∧ q < s.core.queues.length ∧ (queueOf s q).flights = [fl] ∧ fl.work = .plain ∧ fl.pushes = [(hq, h)] ∧ fl.releases = [] ∧ fl.knot = none ∧ (queueOf s q).st ≠ .fencing ∧ hq < s.core.hqs.length ∧ (hqOf s hq).length < 256) ∧
    (∃ (s : State) (q : Nat) (op : Nat) (w : Insn) (c : Instr), InsnMay s q w op ∧ skipped s w = true ∧ (queueOf s q).flights = [] ∧ doneKnotOf w = none ∧ (q = 0 ∧ (op = 0x10 ∧ c = .loadBlock w ∨ op = 0x11 ∧ c = .loadStage w ∨ op = 0x12 ∧ c = .loadSpill w ∨ op = 0x13 ∧ c = .loadCopy w) ∨ q = 1 ∧ op = 0x20 ∧ c = .sapinLand w ∨ q = 6 ∧ op = 0x70 ∧ fieldOf w 23 16 ≠ 1 ∧ c = .vectorOp w ∨ q = 7 ∧ (op = 0x80 ∧ c = .hostioGather w ∨ op = 0x81 ∧ c = .hostioPost w ∨ op = 0x82 ∧ c = .hostioNotify w))) :=
  ⟨⟨runs (up) 0 (insn [(0, 2), (16, 31), (40, 32767)]), 0, insn [(0, 2), (16, 31), (40, 32767)], by decide +kernel⟩,
   ⟨runs (linked up) 0 (insn [(0, 2), (16, 3), (22, 1), (24, 1), (27, 5), (40, 1)]), 0, insn [(0, 2), (16, 3), (22, 1), (24, 1), (27, 5), (40, 1)], by decide +kernel⟩,
   ⟨held (runs (up) 0 (insn [(0, 4), (16, 1023)])) 1023 (some 3), (takeHandle (held (runs (up) 0 (insn [(0, 4), (16, 1023)])) 1023 (some 3)) 0 (fieldOf (insn [(0, 4), (16, 1023)]) 26 16)).2, 0, 1023, insn [(0, 4), (16, 1023)], by decide +kernel⟩,
   ⟨runs (up) 0 (insn [(0, 4), (16, 1023)]), (takeHandle (runs (up) 0 (insn [(0, 4), (16, 1023)])) 0 (fieldOf (insn [(0, 4), (16, 1023)]) 26 16)).2, 0, 1023, insn [(0, 4), (16, 1023)], by decide +kernel⟩,
   ⟨flying up 6 { flight0 .plain with pushes := [(15, 9)] }, 6, 15, 9, { flight0 .plain with pushes := [(15, 9)] }, by decide +kernel⟩,
   ⟨runs (up) 7 (insn [(0, 130), (8, 5), (64, 63)]), 7, 0x82, insn [(0, 130), (8, 5), (64, 63)], .hostioNotify (insn [(0, 130), (8, 5), (64, 63)]), by decide +kernel⟩⟩

theorem meets_LoadInstructions :
    (∃ (s : State) (w : Insn), InsnMay s 0 w 0x10 ∧ skipped s w = false ∧ (slotOf s (fieldOf w 25 16)).count = 0 ∧ plainClash s w = none ∧ (blockSrc w).2 ≤ 65536 ∧ (blockSrc w).1 + (blockSrc w).2 ≤ hbmEnd) ∧
    (∃ (s : State) (w : Insn), InsnMay s 0 w 0x10 ∧ skipped s w = false ∧ ((slotOf s (fieldOf w 25 16)).count ≠ 0 ∨ plainClash s w ≠ none) ∧ (blockSrc w).1 + (blockSrc w).2 ≤ hbmEnd) ∧
    (∃ (s : State) (w : Insn), InsnMay s 0 w 0x10 ∧ skipped s w = false ∧ hbmEnd < (blockSrc w).1 + (blockSrc w).2) ∧
    (∃ (s : State) (w : Insn), InsnMay s 0 w 0x13 ∧ skipped s w = false ∧ 64 * fieldOf w 47 16 + 64 * fieldOf w 103 80 ≤ hbmEnd ∧ 64 * fieldOf w 79 48 + 64 * fieldOf w 103 80 ≤ hbmEnd) ∧
    (∃ (s : State) (w : Insn), InsnMay s 0 w 0x13 ∧ skipped s w = false ∧ (hbmEnd < 64 * fieldOf w 47 16 + 64 * fieldOf w 103 80 ∨ hbmEnd < 64 * fieldOf w 79 48 + 64 * fieldOf w 103 80)) ∧
    (∃ (s : State) (w : Insn) (cols : List WorkFrame), InsnMay s 0 w 0x11 ∧ skipped s w = false ∧ cols = tileColumns s (fieldOf w 27 16) (fieldOf w 39 28) ∧ cols.Pairwise (fun a b => a.column ≠ b.column) ∧ (∀ c ∈ cols, stageBeyond s w c = false ∧ s.str.work.any (refillBefore c) = false ∧ c.column < 64 ∧ (stageRange s w c).2.1 + (stageRange s w c).2.2 ≤ hbmEnd)) ∧
    (∃ (s : State) (w : Insn) (c : WorkFrame), InsnMay s 0 w 0x11 ∧ skipped s w = false ∧ tileColumns s (fieldOf w 27 16) (fieldOf w 39 28) = [c] ∧ stageBeyond s w c = false ∧ s.str.work.any (refillBefore c) = true ∧ c.column < 64 ∧ (stageRange s w c).2.1 + (stageRange s w c).2.2 ≤ hbmEnd) ∧
    (∃ (s : State) (w : Insn) (cols : List WorkFrame), InsnMay s 0 w 0x12 ∧ skipped s w = false ∧ cols = tileColumns s (fieldOf w 27 16) (fieldOf w 39 28) ∧ cols.Pairwise (fun a b => spanMeets (stageRange s w a).2 (stageRange s w b).2 = false) ∧ (∀ c ∈ cols, stageBeyond s w c = false ∧ s.str.work.any (refillBefore c) = false ∧ (stageRange s w c).2.1 + (stageRange s w c).2.2 ≤ hbmEnd)) ∧
    (∃ (s : State) (op : Nat) (w : Insn) (c : Instr), InsnMay s 0 w op ∧ skipped s w = false ∧ (tileColumns s (fieldOf w 27 16) (fieldOf w 39 28)).any (stageBeyond s w) = true ∧ (op = 0x11 ∧ c = .loadStage w ∨ op = 0x12 ∧ c = .loadSpill w)) ∧
    (∃ (s : State) (s' : State) (w : Insn) (h : Nat), InsnMay s 0 w 0x14 ∧ skipped s w = false ∧ HandleTaken s 0 w 16 h s' ∧ (slotOf s h).count ≠ 0 ∧ (slotOf s (fieldOf w 37 28)).count = 0 ∧ (fieldOf w 59 48 + 1) * (fieldOf w 71 60 + 1) * (if fieldOf w 73 72 = 0 then 1 else if fieldOf w 73 72 = 1 then 8 else 16) ≤ 524288 ∧ poisonedUnit s.mem.poolPoison [(slotBase h, ceilDiv ((fieldOf w 59 48 + 1) * (fieldOf w 71 60 + 1) * (if fieldOf w 73 72 = 0 then 1 else if fieldOf w 73 72 = 1 then 8 else 16)) 8)] = none) ∧
    (∃ (s : State) (s' : State) (w : Insn) (h : Nat), InsnMay s 0 w 0x14 ∧ skipped s w = false ∧ HandleTaken s 0 w 16 h s' ∧ ((slotOf s h).count = 0 ∨ (slotOf s (fieldOf w 37 28)).count ≠ 0)) :=
  ⟨⟨runs (up) 0 (insn [(0, 16), (16, 1023), (26, 16), (48, 3221224448), (80, 1024), (92, 4095)]), insn [(0, 16), (16, 1023), (26, 16), (48, 3221224448), (80, 1024), (92, 4095)], by decide +kernel⟩,
   ⟨held (runs (up) 0 (insn [(0, 16), (16, 1023), (26, 16), (48, 3221224448), (80, 1024), (92, 4095)])) 1023 none, insn [(0, 16), (16, 1023), (26, 16), (48, 3221224448), (80, 1024), (92, 4095)], by decide +kernel⟩,
   ⟨runs (up) 0 (insn [(0, 16), (16, 3), (48, 3221225472), (80, 1), (92, 4095)]), insn [(0, 16), (16, 3), (48, 3221225472), (80, 1), (92, 4095)], by decide +kernel⟩,
   ⟨runs (up) 0 (insn [(0, 19), (16, 3221225470), (48, 0), (80, 2)]), insn [(0, 19), (16, 3221225470), (48, 0), (80, 2)], by decide +kernel⟩,
   ⟨runs (up) 0 (insn [(0, 19), (16, 3221225471), (48, 0), (80, 2)]), insn [(0, 19), (16, 3221225471), (48, 0), (80, 2)], by decide +kernel⟩,
   ⟨runs (tiled up) 0 (insn [(0, 17), (40, 1), (78, 1)]), insn [(0, 17), (40, 1), (78, 1)], [work0], by decide +kernel⟩,
   ⟨runs (withStream { up with str := { up.str with work := [{ work0 with tile := 1 }, { work0 with frame := { frame0 with eou := true } }] } } 5 boundStream) 0 (insn [(0, 17), (28, 1), (40, 1), (78, 1)]), insn [(0, 17), (28, 1), (40, 1), (78, 1)], { work0 with tile := 1 }, by decide +kernel⟩,
   ⟨runs (tiled up) 0 (insn [(0, 18), (40, 1), (78, 1)]), insn [(0, 18), (40, 1), (78, 1)], [work0], by decide +kernel⟩,
   ⟨runs (tiled up) 0 (insn [(0, 17), (40, 1), (60, 1), (78, 1)]), 0x11, insn [(0, 17), (40, 1), (60, 1), (78, 1)], .loadStage (insn [(0, 17), (40, 1), (60, 1), (78, 1)]), by decide +kernel⟩,
   ⟨held (runs (up) 0 (insn [(0, 20), (16, 9), (28, 10), (48, 7), (60, 0)])) 9 (some 1), (takeHandle (held (runs (up) 0 (insn [(0, 20), (16, 9), (28, 10), (48, 7), (60, 0)])) 9 (some 1)) 0 (fieldOf (insn [(0, 20), (16, 9), (28, 10), (48, 7), (60, 0)]) 26 16)).2, insn [(0, 20), (16, 9), (28, 10), (48, 7), (60, 0)], 9, by decide +kernel⟩,
   ⟨runs (up) 0 (insn [(0, 20), (16, 9), (28, 10), (48, 7), (60, 0)]), (takeHandle (runs (up) 0 (insn [(0, 20), (16, 9), (28, 10), (48, 7), (60, 0)])) 0 (fieldOf (insn [(0, 20), (16, 9), (28, 10), (48, 7), (60, 0)]) 26 16)).2, insn [(0, 20), (16, 9), (28, 10), (48, 7), (60, 0)], 9, by decide +kernel⟩⟩

theorem meets_ArrayMultiplies :
    (∃ (s : State) (s' : State) (w : Insn) (h : Nat) (cols : List WorkFrame), InsnMay s 4 w 0x50 ∧ skipped s w = false ∧ HandleTaken s 4 w 24 h s' ∧ cols = tileColumns s (fieldOf w 86 75) (fieldOf w 98 87) ∧ groupAligned w h = true ∧ (∀ x ∈ groupOf w h, (slotOf s x).count ≠ 0) ∧ (bitAt w.toNat 21 = true → keepOk s w = true) ∧ tagClash s (groupOf w h) cols = none ∧ poisonedUnit s.mem.poolPoison (latticeOperands w h (cols.map (·.column))) = none) ∧
    (∃ (s : State) (s' : State) (w : Insn) (h : Nat), InsnMay s 4 w 0x50 ∧ skipped s w = false ∧ HandleTaken s 4 w 24 h s' ∧ (groupAligned w h = false ∨ (∃ x ∈ groupOf w h, (slotOf s x).count = 0) ∨ bitAt w.toNat 21 = true ∧ keepOk s w = false ∨ tagClash s (groupOf w h) (tileColumns s (fieldOf w 86 75) (fieldOf w 98 87)) ≠ none)) ∧
    (∃ (s : State) (s' : State) (w : Insn) (h : Nat) (cols : List WorkFrame), InsnMay s 5 w 0x60 ∧ skipped s w = false ∧ HandleTaken s 5 w 22 h s' ∧ cols = tileColumns s (fieldOf w 84 73) (fieldOf w 96 85) ∧ (slotOf s h).count ≠ 0 ∧ tagClash s [h] cols = none ∧ poisonedUnit s.mem.poolPoison (plinthOperands w h (cols.map (·.column))) = none) ∧
    (∃ (s : State) (s' : State) (w : Insn) (h : Nat), InsnMay s 5 w 0x60 ∧ skipped s w = false ∧ HandleTaken s 5 w 22 h s' ∧ ((slotOf s h).count = 0 ∨ tagClash s [h] (tileColumns s (fieldOf w 84 73) (fieldOf w 96 85)) ≠ none)) ∧
    (∃ (s : State) (q : Nat) (op : Nat) (lo : Nat) (w : Insn) (c : Instr), InsnMay s q w op ∧ skipped s w = false ∧ HandleMissing s q w lo ∧ (q = 4 ∧ op = 0x50 ∧ lo = 24 ∧ c = .latticeMul w ∨ q = 5 ∧ op = 0x60 ∧ lo = 22 ∧ c = .plinthMma w)) :=
  ⟨⟨held (held (runs (tiled up) 4 (insn [(0, 80), (16, 1), (24, 10)])) 10 (some 1)) 11 (some 1), (takeHandle (held (held (runs (tiled up) 4 (insn [(0, 80), (16, 1), (24, 10)])) 10 (some 1)) 11 (some 1)) 4 (fieldOf (insn [(0, 80), (16, 1), (24, 10)]) 34 24)).2, insn [(0, 80), (16, 1), (24, 10)], 10, [work0], by decide +kernel⟩,
   ⟨runs (tiled up) 4 (insn [(0, 80), (16, 1), (24, 11)]), (takeHandle (runs (tiled up) 4 (insn [(0, 80), (16, 1), (24, 11)])) 4 (fieldOf (insn [(0, 80), (16, 1), (24, 11)]) 34 24)).2, insn [(0, 80), (16, 1), (24, 11)], 11, by decide +kernel⟩,
   ⟨held (runs (tiled up) 5 (insn [(0, 96), (22, 9)])) 9 (some 1), (takeHandle (held (runs (tiled up) 5 (insn [(0, 96), (22, 9)])) 9 (some 1)) 5 (fieldOf (insn [(0, 96), (22, 9)]) 32 22)).2, insn [(0, 96), (22, 9)], 9, [work0], by decide +kernel⟩,
   ⟨runs (tiled up) 5 (insn [(0, 96), (22, 9)]), (takeHandle (runs (tiled up) 5 (insn [(0, 96), (22, 9)])) 5 (fieldOf (insn [(0, 96), (22, 9)]) 32 22)).2, insn [(0, 96), (22, 9)], 9, by decide +kernel⟩,
   ⟨runs (tiled up) 4 (insn [(0, 80), (16, 1), (24, 1039)]), 4, 0x50, 24, insn [(0, 80), (16, 1), (24, 1039)], .latticeMul (insn [(0, 80), (16, 1), (24, 1039)]), by decide +kernel⟩⟩

theorem meets_VectorOperations :
    (∃ (s : State) (w : Insn), InsnMay s 6 w 0x70 ∧ skipped s w = false ∧ (fieldOf w 23 16 = 0x10 ∨ fieldOf w 23 16 = 0x02) ∧ poisonedUnit s.mem.poolPoison (vecOperands w (vecOcc s w)) = none) ∧
    (∃ (s : State) (w : Insn), InsnMay s 6 w 0x70 ∧ skipped s w = false ∧ fieldOf w 23 16 ≠ 1 ∧ poisonedUnit s.mem.poolPoison (vecOperands w (vecOcc s w)) = none) ∧
    (∃ (s : State) (s' : State) (w : Insn) (h : Nat), InsnMay s 6 w 0x70 ∧ skipped s w = false ∧ fieldOf w 23 16 = 1 ∧ HandleTaken s 6 w 44 h s' ∧ (slotOf s h).count ≠ 0 ∧ tagClash s [h] (vecColumns s w) = none ∧ s.mem.poolPoison = []) ∧
    (∃ (s : State) (s' : State) (w : Insn) (h : Nat), InsnMay s 6 w 0x70 ∧ skipped s w = false ∧ fieldOf w 23 16 = 1 ∧ HandleTaken s 6 w 44 h s' ∧ ((slotOf s h).count = 0 ∨ tagClash s [h] (vecColumns s w) ≠ none)) :=
  ⟨⟨runs (tiled up) 6 (insn [(0, 112), (16, 16), (24, 1), (64, 100), (84, 1)]), insn [(0, 112), (16, 16), (24, 1), (64, 100), (84, 1)], by decide +kernel⟩,
   ⟨runs (tiled up) 6 (insn [(0, 112), (16, 0), (24, 1), (64, 100), (84, 1)]), insn [(0, 112), (16, 0), (24, 1), (64, 100), (84, 1)], by decide +kernel⟩,
   ⟨held (runs (tiled up) 6 (insn [(0, 112), (16, 1), (44, 9)])) 9 (some 1), (takeHandle (held (runs (tiled up) 6 (insn [(0, 112), (16, 1), (44, 9)])) 9 (some 1)) 6 (fieldOf (insn [(0, 112), (16, 1), (44, 9)]) 54 44)).2, insn [(0, 112), (16, 1), (44, 9)], 9, by decide +kernel⟩,
   ⟨runs (tiled up) 6 (insn [(0, 112), (16, 1), (44, 9)]), (takeHandle (runs (tiled up) 6 (insn [(0, 112), (16, 1), (44, 9)])) 6 (fieldOf (insn [(0, 112), (16, 1), (44, 9)]) 54 44)).2, insn [(0, 112), (16, 1), (44, 9)], 9, by decide +kernel⟩⟩

theorem meets_HostInputOutput :
    (∃ (s : State) (w : Insn), InsnMay s 7 w 0x80 ∧ skipped s w = false) ∧
    (∃ (s : State) (w : Insn) (n : Nat) (cols : List WorkFrame), InsnMay s 7 w 0x81 ∧ skipped s w = false ∧ n = ((modelAt s (fieldOf w 27 16)).map (·.resultEntries)).getD 1 ∧ cols = tileColumns s (fieldOf w 27 16) (fieldOf w 39 28) ∧ poisonedUnit s.mem.poolPoison (cols.map (fun c => (workBase (fieldOf w 59 40) + c.column * n * 64, n * 64))) = none ∧ (∀ x ∈ cols, ∀ e ∈ postRecords s (workBase (fieldOf w 59 40)) n x.column, e.1 ≤ 32)) ∧
    (∃ (s : State) (w : Insn) (n : Nat) (cols : List WorkFrame), InsnMay s 7 w 0x81 ∧ skipped s w = false ∧ n = ((modelAt s (fieldOf w 27 16)).map (·.resultEntries)).getD 1 ∧ cols = tileColumns s (fieldOf w 27 16) (fieldOf w 39 28) ∧ (∃ x ∈ cols, ∃ e ∈ postRecords s (workBase (fieldOf w 59 40)) n x.column, 32 < e.1)) ∧
    (∃ (s : State) (s' : State) (w : Insn), InsnMay s 7 w 0x82 ∧ skipped s w = false ∧ eventRoom s 0 = true ∧ (fnOf s 0).lostEvents = 0 ∧ s' = raiseMsix (writeEntry s 0 2 (eventBits s (evOf 0x0301 3 (fieldOf w 63 32 + 7 * 2 ^ 32 + (queueOf s 7).head % 2 ^ 24 * 2 ^ 40)))) 0 1) ∧
    (∃ (s : State) (w : Insn), InsnMay s 7 w 0x82 ∧ skipped s w = false ∧ eventRoom s 0 = false ∧ ringLive (ringOf s 0 2) = true) ∧
    (∃ (s : State) (w : Insn), InsnMay s 7 w 0x82 ∧ skipped s w = false ∧ ringLive (ringOf s 0 2) = false) ∧
    (∃ (s : State) (w : Insn), InsnMay s 7 w 0x82 ∧ skipped s w = false) :=
  ⟨⟨runs (tiled up) 7 (insn [(0, 128), (40, 1), (60, 1)]), insn [(0, 128), (40, 1), (60, 1)], by decide +kernel⟩,
   ⟨runs (tiled up) 7 (insn [(0, 129), (40, 1)]), insn [(0, 129), (40, 1)], 1, [work0], by decide +kernel⟩,
   ⟨{ runs (tiled up) 7 (insn [(0, 129), (40, 1)]) with mem := { up.mem with pool := memWrite 0 [] (workBase 1 + 192) [33] } }, insn [(0, 129), (40, 1)], 1, [work0], by decide +kernel⟩,
   ⟨runs (setFn up 0 liveFn) 7 (insn [(0, 130), (32, 7)]), _, insn [(0, 130), (32, 7)], by decide +kernel, by decide +kernel, by decide +kernel, by decide +kernel, rfl⟩,
   ⟨runs (setFn up 0 { liveFn with rings := setAt liveFn.rings 2 { liveRing with devIdx := 63, seen := some 0 } }) 7 (insn [(0, 130)]), insn [(0, 130)], by decide +kernel⟩,
   ⟨runs (up) 7 (insn [(0, 130)]), insn [(0, 130)], by decide +kernel⟩,
   ⟨runs (up) 7 (insn [(0, 130)]), insn [(0, 130)], by decide +kernel⟩⟩

theorem meets_CodecInstructions :
    (∃ (s : State) (s' : State) (w : Insn) (h : Nat) (out : List Byte), InsnMay s 3 w 0x40 ∧ skipped s w = false ∧ HandleTaken s 3 w 60 h s' ∧ (slotOf s h).count ≠ 0 ∧ (slotOf s (fieldOf w 81 72)).count = 0 ∧ poisonedUnit s.mem.poolPoison [(slotBase h, blockSpan (poolBytes s (slotBase h) 64))] = none ∧ openBlock (poolBytes s (slotBase h) 65536) (fieldOf w 59 28) (modelOf s (fieldOf w 27 16)).keyId (modelOf s (fieldOf w 27 16)).nonceBase (modelKey s (modelOf s (fieldOf w 27 16))).key = .ok out) ∧
    (∃ (s : State) (s' : State) (w : Insn) (h : Nat) (c : Nat), InsnMay s 3 w 0x40 ∧ skipped s w = false ∧ HandleTaken s 3 w 60 h s' ∧ (slotOf s h).count ≠ 0 ∧ (slotOf s (fieldOf w 81 72)).count = 0 ∧ poisonedUnit s.mem.poolPoison [(slotBase h, blockSpan (poolBytes s (slotBase h) 64))] = none ∧ openBlock (poolBytes s (slotBase h) 65536) (fieldOf w 59 28) (modelOf s (fieldOf w 27 16)).keyId (modelOf s (fieldOf w 27 16)).nonceBase (modelKey s (modelOf s (fieldOf w 27 16))).key = .error c) ∧
    (∃ (s : State) (s' : State) (w : Insn) (h : Nat), InsnMay s 3 w 0x41 ∧ skipped s w = false ∧ HandleTaken s 3 w 60 h s' ∧ (slotOf s h).count ≠ 0 ∧ (slotOf s (fieldOf w 81 72)).count = 0 ∧ poisonedUnit s.mem.poolPoison [(slotBase h, 65408)] = none ∧ (slotOf s h).tag = some (modelKey s (modelOf s (fieldOf w 27 16))).owner) ∧
    (∃ (s : State) (s' : State) (op : Nat) (w : Insn) (h : Nat) (c : Instr), InsnMay s 3 w op ∧ skipped s w = false ∧ HandleTaken s 3 w 60 h s' ∧ (op = 0x40 ∧ c = .codecOpen w ∨ op = 0x41 ∧ c = .codecSeal w) ∧ ((slotOf s h).count = 0 ∨ (slotOf s (fieldOf w 81 72)).count ≠ 0 ∨ op = 0x41 ∧ (slotOf s h).tag ≠ some (modelKey s (modelOf s (fieldOf w 27 16))).owner)) ∧
    (∃ (s : State) (op : Nat) (w : Insn) (c : Instr), InsnMay s 3 w op ∧ skipped s w = false ∧ HandleMissing s 3 w 60 ∧ (op = 0x40 ∧ c = .codecOpen w ∨ op = 0x41 ∧ c = .codecSeal w)) :=
  ⟨⟨held ({ runs (keyed up) 3 (insn [(0, 64), (28, 4), (60, 9), (72, 10)]) with mem := { up.mem with pool := memWrite 0 [] (slotBase 9) block1 } }) 9 (some 1), (takeHandle (held ({ runs (keyed up) 3 (insn [(0, 64), (28, 4), (60, 9), (72, 10)]) with mem := { up.mem with pool := memWrite 0 [] (slotBase 9) block1 } }) 9 (some 1)) 3 (fieldOf (insn [(0, 64), (28, 4), (60, 9), (72, 10)]) 70 60)).2, insn [(0, 64), (28, 4), (60, 9), (72, 10)], 9, [7], by decide +kernel, by decide +kernel, by decide +kernel, by decide +kernel, by decide +kernel, by decide +kernel, ok_is (by decide +kernel)⟩,
   ⟨held (runs (keyed up) 3 (insn [(0, 64), (28, 4), (60, 9), (72, 10)])) 9 (some 1), (takeHandle (held (runs (keyed up) 3 (insn [(0, 64), (28, 4), (60, 9), (72, 10)])) 9 (some 1)) 3 (fieldOf (insn [(0, 64), (28, 4), (60, 9), (72, 10)]) 70 60)).2, insn [(0, 64), (28, 4), (60, 9), (72, 10)], 9, 0x21, by decide +kernel, by decide +kernel, by decide +kernel, by decide +kernel, by decide +kernel, by decide +kernel, error_is (by decide +kernel)⟩,
   ⟨held (runs (keyed up) 3 (insn [(0, 65), (28, 4), (60, 9), (72, 10)])) 9 (some 1), (takeHandle (held (runs (keyed up) 3 (insn [(0, 65), (28, 4), (60, 9), (72, 10)])) 9 (some 1)) 3 (fieldOf (insn [(0, 65), (28, 4), (60, 9), (72, 10)]) 70 60)).2, insn [(0, 65), (28, 4), (60, 9), (72, 10)], 9, by decide +kernel⟩,
   ⟨held (runs (keyed up) 3 (insn [(0, 65), (28, 4), (60, 9), (72, 10)])) 9 none, (takeHandle (held (runs (keyed up) 3 (insn [(0, 65), (28, 4), (60, 9), (72, 10)])) 9 none) 3 (fieldOf (insn [(0, 65), (28, 4), (60, 9), (72, 10)]) 70 60)).2, 0x41, insn [(0, 65), (28, 4), (60, 9), (72, 10)], 9, .codecSeal (insn [(0, 65), (28, 4), (60, 9), (72, 10)]), by decide +kernel⟩,
   ⟨runs (keyed up) 3 (insn [(0, 65), (60, 1024)]), 0x41, insn [(0, 65), (60, 1024)], .codecSeal (insn [(0, 65), (60, 1024)]), by decide +kernel⟩⟩

theorem meets_SapInstructions :
    (∃ (s : State) (w : Insn), InsnMay s 1 w 0x20 ∧ skipped s w = false ∧ (slotOf s (fieldOf w 41 32)).count = 0 ∧ (∀ c ∈ s.sap.waiting, c.port ≠ ((schedAt s (fieldOf w 31 16)).map (·.port)).getD 0) ∧ (∀ f ∈ (queueOf s 1).flights, f.finished = false) ∧ sendWorks s = []) ∧
    (∃ (s : State) (w : Insn), InsnMay s 1 w 0x20 ∧ skipped s w = false ∧ (slotOf s (fieldOf w 41 32)).count ≠ 0) ∧
    (∃ (s : State) (i : Nat) (e : SchedEntry), schedAt s i = some e ∧ e.kind = 2 ∧ beforeBoundary s (offsetNs s e.offset) = true ∧ landDone s i e = true) ∧
    (∃ (s : State) (i : Nat) (e : SchedEntry), schedAt s i = some e ∧ e.kind = 2 ∧ beforeBoundary s (offsetNs s e.offset) = true ∧ landDone s i e = false) ∧
    (∃ (s : State) (s' : State) (op : Nat) (w : Insn) (c : Instr) (h : Nat) (e : SchedEntry), InsnMay s 2 w op ∧ skipped s w = false ∧ (op = 0x30 ∧ c = .sapoutLaunch w ∨ op = 0x31 ∧ c = .sapoutForward w) ∧ HandleTaken s 2 w 32 h s' ∧ (slotOf s h).count ≠ 0 ∧ (slotOf s h).tag = none ∧ schedAt s (fieldOf w 31 16) = some e ∧ (s.time.now < offsetNs s e.offset ∨ portTakesChunk s e.port = false) ∧ sendWorks s = []) ∧
    (∃ (s : State) (s' : State) (op : Nat) (w : Insn) (c : Instr) (h : Nat), InsnMay s 2 w op ∧ skipped s w = false ∧ (op = 0x30 ∧ c = .sapoutLaunch w ∨ op = 0x31 ∧ c = .sapoutForward w) ∧ HandleTaken s 2 w 32 h s' ∧ ((slotOf s h).count = 0 ∨ (slotOf s h).tag ≠ none)) ∧
    (∃ (s : State) (op : Nat) (w : Insn) (c : Instr), InsnMay s 2 w op ∧ skipped s w = false ∧ HandleMissing s 2 w 32 ∧ (op = 0x30 ∧ c = .sapoutLaunch w ∨ op = 0x31 ∧ c = .sapoutForward w)) ∧
    (∃ (s : State) (i : Nat) (e : SchedEntry) (fl : Flight) (w : SendWork), schedAt s i = some e ∧ e.kind ≠ 2 ∧ beforeBoundary s (offsetNs s e.offset) = true ∧ (queueOf s 2).flights = [fl] ∧ fl.work = .send w ∧ w.sched = i ∧ w.started = false ∧ portTakesChunk s e.port = false) ∧
    (∃ (s : State) (i : Nat) (e : SchedEntry) (fl : Flight) (w : SendWork), schedAt s i = some e ∧ e.kind ≠ 2 ∧ beforeBoundary s (offsetNs s e.offset) = true ∧ (queueOf s 2).flights = [fl] ∧ fl.work = .send w ∧ w.sched = i ∧ w.started = false ∧ portTakesChunk s e.port = true ∧ e.port < 8 ∧ sendTurn s e.port = some i ∧ w.sent = 0 ∧ 1 ≤ e.len ∧ e.len ≤ 64 ∧ 0 < landedOf s w.slot ∧ s.mem.poolBad = [] ∧ poisonedUnit s.mem.poolPoison [(slotBase w.slot, 64 * e.len)] = none) :=
  ⟨⟨runs (up) 1 (insn [(0, 32), (32, 9), (53, 63)]), insn [(0, 32), (32, 9), (53, 63)], by decide +kernel⟩,
   ⟨held (runs (up) 1 (insn [(0, 32), (32, 9), (53, 63)])) 9 none, insn [(0, 32), (32, 9), (53, 63)], by decide +kernel⟩,
   ⟨{ withSched (ticking up) [land0] with sap := { up.sap with landNext := setAt up.sap.landNext 1 1 } }, 0, land0, by decide +kernel⟩,
   ⟨withSched (ticking up) [land0], 0, land0, by decide +kernel⟩,
   ⟨held (running (ticking up) { plan0 with sched := [{ land0 with kind := 0 }], queues := setAt plan0.queues 2 [insn [(0, 48), (32, 9)]] }) 9 none, (takeHandle (held (running (ticking up) { plan0 with sched := [{ land0 with kind := 0 }], queues := setAt plan0.queues 2 [insn [(0, 48), (32, 9)]] }) 9 none) 2 (fieldOf (insn [(0, 48), (32, 9)]) 42 32)).2, 0x30, insn [(0, 48), (32, 9)], .sapoutLaunch (insn [(0, 48), (32, 9)]), 9, { land0 with kind := 0 }, by decide +kernel⟩,
   ⟨held (running (ticking up) { plan0 with sched := [{ land0 with kind := 0 }], queues := setAt plan0.queues 2 [insn [(0, 48), (32, 9)]] }) 9 (some 1), (takeHandle (held (running (ticking up) { plan0 with sched := [{ land0 with kind := 0 }], queues := setAt plan0.queues 2 [insn [(0, 48), (32, 9)]] }) 9 (some 1)) 2 (fieldOf (insn [(0, 48), (32, 9)]) 42 32)).2, 0x30, insn [(0, 48), (32, 9)], .sapoutLaunch (insn [(0, 48), (32, 9)]), 9, by decide +kernel⟩,
   ⟨running (ticking up) { plan0 with sched := [{ land0 with kind := 0 }], queues := setAt plan0.queues 2 [insn [(0, 49), (32, 1034)]] }, 0x31, insn [(0, 49), (32, 1034)], .sapoutForward (insn [(0, 49), (32, 1034)]), by decide +kernel⟩,
   ⟨flying (withSched (ticking up) [{ land0 with kind := 0 }]) 2 (flight0 (.send sendFlight)), 0, { land0 with kind := 0 }, flight0 (.send sendFlight), sendFlight, by decide +kernel⟩,
   ⟨flying (linked (withSched (ticking up) [{ land0 with kind := 0 }])) 2 (flight0 (.send sendFlight)), 0, { land0 with kind := 0 }, flight0 (.send sendFlight), sendFlight, by decide +kernel⟩⟩

theorem meets_ChunkArrival :
    (∃ (s : State) (p : Nat) (u : RawUnit), MsgMay s p u 0 ∧ chunkDamaged u = false ∧ InOrder s p u ∧ runningPlan s = none) ∧
    (∃ (s : State) (p : Nat) (i : Nat) (u : RawUnit) (a : Plan), MsgMay s p u 0 ∧ chunkDamaged u = false ∧ InOrder s p u ∧ runningPlan s = some a ∧ expectedPlan s (headOf u).tick = some (headOf u).plan ∧ chunkExpected s (chunkOf p u (headOf u)) = some (true, i) ∧ (∀ e j, landEntry s p 0 = some (e, j) → landFlight s j = none) ∧ (∀ f ∈ (queueOf s 1).flights, f.finished = false) ∧ sendWorks s = []) ∧
    (∃ (s : State) (p : Nat) (i : Nat) (u : RawUnit) (a : Plan) (fl : Flight) (w : LandWork) (c : Chunk), MsgMay s p u 0 ∧ chunkDamaged u = false ∧ InOrder s p u ∧ runningPlan s = some a ∧ c = chunkOf p u (headOf u) ∧ expectedPlan s (headOf u).tick = some (headOf u).plan ∧ chunkExpected s c = some (true, i) ∧ (∀ x ∈ s.sap.waiting, x.port ≠ p) ∧ s.core.queues.length = 8 ∧ (queueOf s 1).flights = [fl] ∧ fl.finished = false ∧ fl.work = .land w ∧ w.sched = i ∧ w.early = false ∧ c.last = false ∧ sendWorks s = []) ∧
    (∃ (s : State) (p : Nat) (i : Nat) (u : RawUnit) (a : Plan), MsgMay s p u 0 ∧ chunkDamaged u = false ∧ InOrder s p u ∧ runningPlan s = some a ∧ (expectedPlan s (headOf u).tick ≠ some (headOf u).plan ∨ chunkExpected s (chunkOf p u (headOf u)) = some (false, i) ∨ chunkExpected s (chunkOf p u (headOf u)) = none)) ∧
    (∃ (s : State) (p : Nat) (u : RawUnit), MsgMay s p u 0 ∧ (chunkDamaged u = true ∨ ¬ InOrder s p u) ∧ sendWorks s = []) :=
  ⟨⟨linked up, 1, chunk0 4, by decide +kernel⟩,
   ⟨linked (running up ringed), 1, 0, chunk0 4, ringed, by decide +kernel, by decide +kernel, by decide +kernel, by decide +kernel, by decide +kernel, by decide +kernel, one_all (a := land0) (b := 0) (by decide +kernel) (by decide +kernel), by decide +kernel, by decide +kernel⟩,
   ⟨flying (linked (running up ringed)) 1 (flight0 (.land { sched := 0, dst := 9, pa := none, early := false, ek := none, landed := 0 })), 1, 0, buildUnit { head0 with typ := chunkType, msg := 0, body := bodyOf [(24, 4, 9), (28, 4, 4), (32, 1, 0), (34, 2, 64)] } (List.replicate 4096 0), ringed, flight0 (.land { sched := 0, dst := 9, pa := none, early := false, ek := none, landed := 0 }), { sched := 0, dst := 9, pa := none, early := false, ek := none, landed := 0 }, chunkOf 1 (buildUnit { head0 with typ := chunkType, msg := 0, body := bodyOf [(24, 4, 9), (28, 4, 4), (32, 1, 0), (34, 2, 64)] } (List.replicate 4096 0)) (headOf (buildUnit { head0 with typ := chunkType, msg := 0, body := bodyOf [(24, 4, 9), (28, 4, 4), (32, 1, 0), (34, 2, 64)] } (List.replicate 4096 0))), by decide +kernel⟩,
   ⟨linked (running up ringed), 1, 0, chunk0 5, ringed, by decide +kernel⟩,
   ⟨linked up, 7, broken (chunk0 4), by decide +kernel⟩⟩

theorem meets_PortTrainingAndDiscovery :
    (∃ (s : State) (p : Nat), p < 8 ∧ s.link.ports.length = 8 ∧ s.boot.phase = .firmware ∧ mainOn s = true ∧ (portOf s p).st = .dark ∧ (portOf s p).settled = false ∧ portClock s p = true ∧ testMode s = false) ∧
    (∃ (s : State) (p : Nat), p < 8 ∧ s.link.ports.length = 8 ∧ (portOf s p).st = .training) ∧
    (∃ (s : State) (p : Nat), p < 8 ∧ s.link.ports.length = 8 ∧ (portOf s p).st = .training) ∧
    (∃ (s : State) (p : Nat), p < 8 ∧ s.link.ports.length = 8 ∧ (portOf s p).st = .discovery) ∧
    (∃ (s : State) (p : Nat) (id : Nat) (u : RawUnit), p < 8 ∧ s.link.ports.length = 8 ∧ mainOn s = true ∧ (portOf s p).st = .discovery ∧ headFault u = false ∧ (headOf u).msg = 0x41 ∧ id = bodyAt (headOf u) 33 1 * 128 + bodyAt (headOf u) 34 1 ∧ (s.link.valid = true → s.link.chipId = id) ∧ bodyAt (headOf u) 32 1 = p ∧ bitAt (bodyAt (headOf u) 35 1) 0 = true ∧ bitAt (bodyAt (headOf u) 35 1) 2 = false ∧ sendWorks s = []) ∧
    (∃ (s : State) (p : Nat) (u : RawUnit), p < 8 ∧ s.link.ports.length = 8 ∧ mainOn s = true ∧ (portOf s p).st = .discovery ∧ headFault u = false ∧ (headOf u).msg = 0x41 ∧ sendWorks s = [] ∧ (bodyAt (headOf u) 32 1 ≠ p ∨ bitAt (bodyAt (headOf u) 35 1) 0 = false ∨ bitAt (bodyAt (headOf u) 35 1) 2 = true ∨ s.link.valid = true ∧ s.link.chipId ≠ bodyAt (headOf u) 33 1 * 128 + bodyAt (headOf u) 34 1)) :=
  ⟨⟨up, 7, by decide +kernel⟩,
   ⟨portIn up 0 .training, 0, by decide +kernel⟩,
   ⟨portIn up 0 .training, 0, by decide +kernel⟩,
   ⟨portIn up 7 .discovery, 7, by decide +kernel⟩,
   ⟨{ linked up with link := { (linked up).link with ports := setAt (linked up).link.ports 6 { Port.reset with st := .discovery } } }, 6, 2047, msg 0x41 [(32, 1, 6), (33, 1, 15), (34, 1, 127), (35, 1, 1), (36, 2, 512)], by decide +kernel⟩,
   ⟨{ linked up with link := { (linked up).link with ports := setAt (linked up).link.ports 6 { Port.reset with st := .discovery } } }, 6, msg 0x41 [(32, 1, 7), (33, 1, 15), (34, 1, 127), (35, 1, 1), (36, 2, 512)], by decide +kernel⟩⟩

theorem meets_AcknowledgementAndReplay :
    (∃ (s : State) (p : Nat) (u : RawUnit), MsgMay s p u 0x10 ∧ LinkStill s p ∧ (queueOf s 2).flights = []) ∧
    (∃ (s : State) (p : Nat) (u : RawUnit), MsgMay s p u 0x11 ∧ LinkStill s p ∧ (((portOf s p).units.filter (replayCovers (srcOf u) (bodyAt (headOf u) 24 2))).map (fun v => unitFlits v.u)).sum ≤ (portOf s p).txCredit) ∧
    (∃ (s : State) (p : Nat) (u : RawUnit), MsgMay s p u 0x12 ∧ LinkStill s p) ∧
    (∃ (s : State) (p : Nat) (peer : Nat) (v : OutUnit), carries s p = true ∧ AllSent s p ∧ (unackedTo (portOf s p) peer).find? (·.retryWait) = some v ∧ (((portOf s p).units.filter (replayCovers peer v.lsn)).map (fun x => unitFlits x.u)).sum ≤ (portOf s p).txCredit) ∧
    (∃ (s : State) (p : Nat) (peer : Nat) (v : OutUnit) (rest : List OutUnit), carries s p = true ∧ AllSent s p ∧ unackedTo (portOf s p) peer = v :: rest ∧ v.retryWait = false ∧ v.tries < 4 ∧ (((portOf s p).units.filter (replayCovers peer v.lsn)).map (fun x => unitFlits x.u)).sum ≤ (portOf s p).txCredit) ∧
    (∃ (s : State) (p : Nat) (peer : Nat) (v : OutUnit) (rest : List OutUnit), carries s p = true ∧ unackedTo (portOf s p) peer = v :: rest ∧ v.retryWait = false ∧ 4 ≤ v.tries ∧ planUnit v = true ∧ s.core.active.isSome = true) ∧
    (∃ (s : State) (p : Nat) (q : Nat) (peer : Nat) (v : OutUnit) (rest : List OutUnit), carries s p = true ∧ s.link.ports.length = 8 ∧ unackedTo (portOf s p) peer = v :: rest ∧ v.retryWait = false ∧ 4 ≤ v.tries ∧ planUnit v = false ∧ (portsAfter s p).find? (fun x => !(p :: v.refused).contains x) = some q) :=
  ⟨⟨queued up 1 [unit0 1], 1, msg 0x10 [(24, 2, 3)], by decide +kernel⟩,
   ⟨queued up 1 [unit0 1], 1, msg 0x11 [(24, 2, 3), (26, 1, 1)], by decide +kernel⟩,
   ⟨queued up 1 [unit0 1], 1, msg 0x12 [(24, 2, 3), (26, 2, 5)], by decide +kernel⟩,
   ⟨queued up 1 [{ unit0 1 with retryWait := true }], 1, 5, { unit0 1 with retryWait := true }, by decide +kernel⟩,
   ⟨queued up 1 [unit0 3], 1, 5, unit0 3, [], by decide +kernel⟩,
   ⟨queued (running up plan0) 1 [unit0 4], 1, 5, unit0 4, [], by decide +kernel⟩,
   ⟨queued up 1 [{ unit0 4 with msg := 0x30 }], 1, 2, 5, { unit0 4 with msg := 0x30 }, [], by decide +kernel⟩⟩

theorem meets_HopsUpAndDown :
    (∃ (s : State) (p : Nat) (u : RawUnit), MsgMay s p u 0x01 ∧ LinkStill s p) ∧
    (∃ (s : State) (p : Nat), carries s p = true ∧ AllSent s p ∧ (∀ v ∈ (portOf s p).units, v.msg ≠ 0x01) ∧ 1 ≤ (portOf s p).txCredit) ∧
    (∃ (s : State) (p : Nat) (u : RawUnit) (v : OutUnit), MsgMay s p u 0x46 ∧ (unackedTo (portOf s p) (bodyAt (headOf u) 24 2)).find? (fun v => v.lsn == bodyAt (headOf u) 26 2) = some v ∧ planUnit v = true ∧ s.core.active.isSome = true) ∧
    (∃ (s : State) (p : Nat) (q : Nat) (u : RawUnit) (v : OutUnit), MsgMay s p u 0x46 ∧ (unackedTo (portOf s p) (bodyAt (headOf u) 24 2)).find? (fun v => v.lsn == bodyAt (headOf u) 26 2) = some v ∧ planUnit v = false ∧ sendWorks s = [] ∧ (portsAfter s p).find? (fun x => !(p :: v.refused).contains x) = some q) ∧
    (∃ (s : State) (p : Nat) (q : Nat) (xid : Nat) (u : RawUnit), MsgMay s p u 0x46 ∧ (unackedTo (portOf s p) (bodyAt (headOf u) 24 2)).find? (fun v => v.lsn == bodyAt (headOf u) 26 2) = none ∧ bodyAt (headOf u) 26 2 = 0 ∧ sendWorks s = [] ∧ s.time.parent = some (bodyAt (headOf u) 24 2, p) ∧ s.time.request = some xid ∧ portTo { s with time := { s.time with barred := insertNat p s.time.barred } } (bodyAt (headOf u) 24 2) = some q) ∧
    (∃ (s : State) (p : Nat), p < 8 ∧ s.link.ports.length = 8 ∧ (portOf s p).st ≠ .dark ∧ (portOf s p).st ≠ .training ∧ planUses s p = false) ∧
    (∃ (s : State) (p : Nat), p < 8 ∧ (portOf s p).st ≠ .dark ∧ (portOf s p).st ≠ .training ∧ planUses s p = true) ∧
    (∃ (s : State) (p : Nat), p < 8 ∧ s.link.ports.length = 8 ∧ (portOf s p).st = .drain ∧ portEmpty s p = true ∧ 0 < (portOf s p).txCredit) ∧
    (∃ (s : State) (p : Nat), p < 8 ∧ s.link.ports.length = 8 ∧ (portOf s p).st = .drain ∧ (portEmpty s p = false ∨ (portOf s p).txCredit = 0)) :=
  ⟨⟨linked up, 0, msg 0x01 [], by decide +kernel⟩,
   ⟨linked up, 7, by decide +kernel⟩,
   ⟨queued (running up plan0) 1 [unit0 1], 1, msg 0x46 [(24, 2, 5), (26, 2, 3)], unit0 1, by decide +kernel⟩,
   ⟨queued up 7 [{ unit0 1 with msg := 0x30 }], 7, 0, msg 0x46 [(24, 2, 5), (26, 2, 3)], { unit0 1 with msg := 0x30 }, by decide +kernel⟩,
   ⟨{ linked up with time := { up.time with st := .sync, now := 1000, hasRoot := true, rootId := 5, parent := some (5, 1), request := some 9 }, link := { (linked up).link with up := [(5, 0xFF)] } }, 1, 0, 9, msg 0x46 [(24, 2, 5), (26, 2, 0)], by decide +kernel⟩,
   ⟨linked up, 0, by decide +kernel⟩,
   ⟨linked (running up ringed), 1, by decide +kernel⟩,
   ⟨portIn up 7 .drain, 7, by decide +kernel⟩,
   ⟨setPort (linked up) 0 { activePort with st := .drain, units := [unit0 1] }, 0, by decide +kernel⟩⟩

theorem meets_RemoteKnotSignals :
    (∃ (s : State) (p : Nat) (u : RawUnit) (a : Plan), MsgMay s p u 0x20 ∧ InOrder s p u ∧ sendWorks s = [] ∧ runningPlan s = some a ∧ expectedPlan s (headOf u).tick = some (headOf u).plan ∧ (headOf u).tick = s.tick.index ∧ bodyAt (headOf u) 24 1 < 32 ∧ s.knot.vals.length = 48) ∧
    (∃ (s : State) (p : Nat) (k : Nat) (n : Nat) (u : RawUnit) (a : Plan), MsgMay s p u 0x20 ∧ InOrder s p u ∧ sendWorks s = [] ∧ runningPlan s = some a ∧ expectedPlan s (headOf u).tick = some (headOf u).plan ∧ (headOf u).tick = s.tick.index ∧ k = bodyAt (headOf u) 24 1 ∧ 32 ≤ k ∧ n = bodyAt (headOf u) 26 2 % 4096 ∧ s.knot.vals.length = 48 ∧ (∀ q, (queueOf s q).knot.map (·.1) ≠ some k) ∧ (if bitAt (bodyAt (headOf u) 26 2) 15 then n ≤ knotOf s k else knotOf s k + n ≤ knotLimit s k)) ∧
    (∃ (s : State) (p : Nat) (k : Nat) (n : Nat) (u : RawUnit) (a : Plan), MsgMay s p u 0x20 ∧ InOrder s p u ∧ runningPlan s = some a ∧ expectedPlan s (headOf u).tick = some (headOf u).plan ∧ (headOf u).tick = s.tick.index ∧ k = bodyAt (headOf u) 24 1 ∧ 32 ≤ k ∧ n = bodyAt (headOf u) 26 2 % 4096 ∧ (if bitAt (bodyAt (headOf u) 26 2) 15 then knotOf s k < n else knotLimit s k < knotOf s k + n)) ∧
    (∃ (s : State) (p : Nat) (u : RawUnit) (a : Plan), MsgMay s p u 0x20 ∧ InOrder s p u ∧ sendWorks s = [] ∧ runningPlan s = some a ∧ expectedPlan s (headOf u).tick = some (headOf u).plan ∧ (headOf u).tick ≠ s.tick.index ∧ (headOf u).tick = nextTick s) ∧
    (∃ (s : State) (p : Nat) (u : RawUnit) (a : Plan), MsgMay s p u 0x20 ∧ InOrder s p u ∧ sendWorks s = [] ∧ runningPlan s = some a ∧ expectedPlan s (headOf u).tick = some (headOf u).plan ∧ s.tick.index < (headOf u).tick ∧ (headOf u).tick < nextTick s) ∧
    (∃ (s : State) (p : Nat) (u : RawUnit) (a : Plan), MsgMay s p u 0x20 ∧ InOrder s p u ∧ runningPlan s = some a ∧ (expectedPlan s (headOf u).tick ≠ some (headOf u).plan ∨ (headOf u).tick < s.tick.index ∧ (headOf u).tick ≠ nextTick s ∨ nextTick s < (headOf u).tick ∧ (headOf u).tick ≠ s.tick.index)) ∧
    (∃ (s : State) (p : Nat) (u : RawUnit), MsgMay s p u 0x20 ∧ InOrder s p u ∧ runningPlan s = none) :=
  ⟨⟨linked (running up ringed), 7, msg 0x20 [(24, 1, 31), (26, 2, 32767)], ringed, by decide +kernel⟩,
   ⟨linked (running up { ringed with knots := List.replicate 48 (0, 100) }), 7, 47, 100, msg 0x20 [(24, 1, 47), (26, 2, 100)], { ringed with knots := List.replicate 48 (0, 100) }, by decide +kernel, by decide +kernel, by decide +kernel, by decide +kernel, by decide +kernel, by decide +kernel, by decide +kernel, by decide +kernel, by decide +kernel, by decide +kernel, queue_all (P := fun x => x.knot.map (·.1) ≠ some 47) (by decide +kernel) (by decide +kernel), by decide +kernel⟩,
   ⟨linked (running up ringed), 7, 32, 1, msg 0x20 [(24, 1, 32), (26, 2, 1)], ringed, by decide +kernel⟩,
   ⟨{ linked (running up ringed) with tick := { up.tick with index := 5 }, time := { up.time with st := .root, now := 50000000 } }, 7, buildUnit { head0 with msg := 0x20, tick := 6, plan := 7, body := bodyOf [(24, 1, 0), (26, 2, 1)] } [], ringed, by decide +kernel⟩,
   ⟨{ linked (running up ringed) with tick := { up.tick with index := 5 }, time := { up.time with st := .root, now := 65000000 } }, 7, buildUnit { head0 with msg := 0x20, tick := 6, plan := 7, body := bodyOf [(24, 1, 0), (26, 2, 1)] } [], ringed, by decide +kernel⟩,
   ⟨linked (running up ringed), 7, buildUnit { head0 with msg := 0x20, tick := 0, plan := 8, body := bodyOf [(24, 1, 0), (26, 2, 1)] } [], ringed, by decide +kernel⟩,
   ⟨linked up, 0, msg 0x20 [(24, 1, 31), (26, 2, 32767)], by decide +kernel⟩⟩

theorem meets_CommitAndStopMessages :
    (∃ (s : State) (p : Nat) (u : RawUnit), MsgMay s p u 0x21 ∧ InOrder s p u ∧ sendWorks s = [] ∧ commitRuns s = none) ∧
    (∃ (s : State) (p : Nat) (n : Nat) (d : Desc) (u : RawUnit), MsgMay s p u 0x21 ∧ InOrder s p u ∧ sendWorks s = [] ∧ commitRuns s = some (d, n) ∧ standbyPartners s = [srcOf u] ∧ bodyAt (headOf u) 24 8 = standbyId s ∧ bodyAt (headOf u) 32 6 = n ∧ s.core.standby.map (·.quarters) = some (bodyAt (headOf u) 38 1)) ∧
    (∃ (s : State) (p : Nat) (n : Nat) (d : Desc) (u : RawUnit), MsgMay s p u 0x21 ∧ InOrder s p u ∧ sendWorks s = [] ∧ commitRuns s = some (d, n) ∧ srcOf u ∈ standbyPartners s ∧ (bodyAt (headOf u) 24 8 ≠ standbyId s ∨ bodyAt (headOf u) 32 6 ≠ n ∨ s.core.standby.map (·.quarters) ≠ some (bodyAt (headOf u) 38 1))) ∧
    (∃ (s : State) (p : Nat) (u : RawUnit), MsgMay s p u 0x22 ∧ InOrder s p u ∧ sendWorks s = [] ∧ s.core.armed = true ∧ standbyId s = bodyAt (headOf u) 24 8 ∧ s.core.commitN = bodyAt (headOf u) 32 6 ∧ srcOf u ∈ standbyPartners s ∧ s.tick.index < s.core.commitN) ∧
    (∃ (s : State) (p : Nat) (u : RawUnit), MsgMay s p u 0x22 ∧ InOrder s p u ∧ sendWorks s = [] ∧ s.core.armed = false) ∧
    (∃ (s : State) (p : Nat) (u : RawUnit), MsgMay s p u 0x23 ∧ InOrder s p u ∧ s.core.halted = false ∧ srcOf u ∈ ringPartners s) ∧
    (∃ (s : State) (p : Nat) (u : RawUnit), MsgMay s p u 0x23 ∧ InOrder s p u ∧ sendWorks s = [] ∧ (srcOf u ∉ ringPartners s ∨ s.core.halted = true)) :=
  ⟨⟨linked up, 1, msg 0x21 [(24, 8, 7), (32, 6, 9), (38, 1, 40)], by decide +kernel⟩,
   ⟨{ linked up with core := { up.core with standby := some ringed }, admin := some { d := 0, work := .commit 9 } }, 1, 9, 0, msg 0x21 [(24, 8, 7), (32, 6, 9), (38, 1, 40)], by decide +kernel⟩,
   ⟨{ linked up with core := { up.core with standby := some ringed }, admin := some { d := 0, work := .commit 9 } }, 1, 9, 0, msg 0x21 [(24, 8, 7), (32, 6, 9), (38, 1, 41)], by decide +kernel⟩,
   ⟨{ linked (ticking up) with core := { up.core with standby := some ringed, armed := true, commitN := 9 } }, 1, msg 0x22 [(24, 8, 7), (32, 6, 9)], by decide +kernel⟩,
   ⟨linked up, 1, msg 0x22 [(24, 8, 7), (32, 6, 9)], by decide +kernel⟩,
   ⟨linked (running up ringed), 1, msg 0x23 [(24, 1, 1)], by decide +kernel⟩,
   ⟨linked up, 1, msg 0x23 [(24, 1, 4)], by decide +kernel⟩⟩

theorem meets_PeerReportsAndProbes :
    (∃ (s : State) (p : Nat) (chip : Nat) (plane : Nat) (u : RawUnit), MsgMay s p u 0x43 ∧ sendWorks s = [] ∧ chip = bodyAt (headOf u) 24 2 ∧ plane = bodyAt (headOf u) 26 1) ∧
    (∃ (s : State) (p : Nat) (chip : Nat) (plane : Nat) (u : RawUnit), MsgMay s p u 0x44 ∧ sendWorks s = [] ∧ chip = bodyAt (headOf u) 24 2 ∧ plane = bodyAt (headOf u) 26 1 ∧ (planUses s plane = false ∨ chip ∉ ringPartners s)) ∧
    (∃ (s : State) (p : Nat) (u : RawUnit), MsgMay s p u 0x44 ∧ planUses s (bodyAt (headOf u) 26 1) = true ∧ bodyAt (headOf u) 24 2 ∈ ringPartners s) ∧
    (∃ (s : State) (p : Nat) (u : RawUnit), MsgMay s p u 0x30 ∧ InOrder s p u ∧ sendWorks s = []) ∧
    (∃ (s : State) (p : Nat) (d : Desc) (u : RawUnit) (l : List Probe), MsgMay s p u 0x31 ∧ InOrder s p u ∧ sendWorks s = [] ∧ s.admin = some { d := d, work := .slice } ∧ bodyAt (headOf u) 24 4 / 8 = srcOf u ∧ l = probesAfter s (srcOf u) (bodyAt (headOf u) 24 4 % 8) (fun q => { q with answer := some (bitAt (bodyAt (headOf u) 28 1) 0) })) ∧
    (∃ (s : State) (chip : Nat) (port : Nat) (q : Probe), s.link.probes.find? (fun q => q.chip == chip && q.port == port && !probeDone q) = some q ∧ q.tries < 3) ∧
    (∃ (s : State) (d : Desc) (chip : Nat) (port : Nat) (q : Probe) (l : List Probe), s.admin = some { d := d, work := .slice } ∧ s.link.probes.find? (fun q => q.chip == chip && q.port == port && !probeDone q) = some q ∧ 3 ≤ q.tries ∧ l = probesAfter s chip port (fun q => { q with unreachable := true })) :=
  ⟨⟨linked up, 1, 2047, 7, msg 0x43 [(24, 2, 2047), (26, 1, 7)], by decide +kernel⟩,
   ⟨linked up, 1, 2047, 7, msg 0x44 [(24, 2, 2047), (26, 1, 7)], by decide +kernel⟩,
   ⟨linked (running up ringed), 2, msg 0x44 [(24, 2, 5), (26, 1, 1)], by decide +kernel⟩,
   ⟨linked up, 1, msg 0x30 [(24, 4, 77)], by decide +kernel⟩,
   ⟨probing up 1, 7, 0, msg 0x31 [(24, 4, probeId 5 7), (28, 1, 1)], _, by decide +kernel, by decide +kernel, by decide +kernel, by decide +kernel, by decide +kernel, rfl⟩,
   ⟨probing up 2, 5, 7, probe0 2, by decide +kernel⟩,
   ⟨probing up 3, 0, 5, 7, probe0 3, _, by decide +kernel, by decide +kernel, by decide +kernel, rfl⟩⟩

theorem meets_RootsOfGroveTime :
    (∃ (s : State) (p : Nat) (x : Nat) (c : Nat) (u : RawUnit), MsgMay s p u 0x50 ∧ sendWorks s = [] ∧ c = bodyAt (headOf u) 32 2 ∧ x = bodyAt (headOf u) 24 8 ∧ c ≠ s.link.chipId ∧ tabFind s.time.announces c ≠ some x ∧ (s.time.hasRoot = false ∨ c ≠ s.time.rootId ∧ betterRoot s x c = true) ∧ (planBinds s = false ∨ farApart x s.time.now = false)) ∧
    (∃ (s : State) (p : Nat) (x : Nat) (c : Nat) (u : RawUnit), MsgMay s p u 0x50 ∧ sendWorks s = [] ∧ c = bodyAt (headOf u) 32 2 ∧ x = bodyAt (headOf u) 24 8 ∧ (c = s.link.chipId ∨ tabFind s.time.announces c = some x ∨ s.time.hasRoot = true ∧ (c = s.time.rootId ∨ betterRoot s x c = false) ∨ planBinds s = true ∧ farApart x s.time.now = true)) ∧
    (∃ (s : State), s.time.st = .root ∧ (∀ p ∈ activePorts s, AllSent s p ∧ 1 ≤ (portOf s p).txCredit)) ∧
    (∃ (s : State), mainOn s = true ∧ discovered s = true ∧ s.time.st = .unsync) ∧
    (∃ (s : State), mainOn s = true ∧ (s.time.st = .sync ∨ s.time.st = .holdover)) ∧
    (∃ (s : State), s.time.st = .root) :=
  ⟨⟨linked up, 1, 1000, 5, msg 0x50 [(24, 8, 1000), (32, 2, 5)], by decide +kernel⟩,
   ⟨{ linked up with time := { up.time with hasRoot := true, rootId := 4 } }, 1, 1000000, 5, msg 0x50 [(24, 8, 1000000), (32, 2, 5)], by decide +kernel⟩,
   ⟨ticking (linked up), by decide +kernel⟩,
   ⟨linked up, by decide +kernel⟩,
   ⟨{ linked up with time := { up.time with st := .sync, now := 1000, hasRoot := true, rootId := 5, parent := some (5, 1), request := some 9 }, link := { (linked up).link with up := [(5, 0xFF)] } }, by decide +kernel⟩,
   ⟨ticking up, by decide +kernel⟩⟩

theorem meets_ExchangeAndHoldover :
    (∃ (s : State) (chip : Nat) (q : Nat) (p : Nat), s.time.parent = some (chip, q) ∧ portTo s chip = some p) ∧
    (∃ (s : State) (p : Nat) (u : RawUnit), MsgMay s p u 0x51 ∧ sendWorks s = []) ∧
    (∃ (s : State) (p : Nat) (u : RawUnit) (x : Sample), MsgMay s p u 0x52 ∧ sendWorks s = [] ∧ s.time.request = some (bodyAt (headOf u) 56 4) ∧ x = sampleOf (bodyAt (headOf u) 24 8) (bodyAt (headOf u) 32 8) (bodyAt (headOf u) 40 8) s.time.now (bodyAt (headOf u) 48 4) (bodyAt (headOf u) 52 4) ∧ slowSample s x = false ∧ bodyAt (headOf u) 62 1 ≠ 0 ∧ -32000 ≤ x.offset ∧ x.offset ≤ 32000) ∧
    (∃ (s : State) (p : Nat) (u : RawUnit) (x : Sample), MsgMay s p u 0x52 ∧ sendWorks s = [] ∧ s.time.request = some (bodyAt (headOf u) 56 4) ∧ x = sampleOf (bodyAt (headOf u) 24 8) (bodyAt (headOf u) 32 8) (bodyAt (headOf u) 40 8) s.time.now (bodyAt (headOf u) 48 4) (bodyAt (headOf u) 52 4) ∧ slowSample s x = false ∧ bodyAt (headOf u) 62 1 ≠ 0 ∧ planBinds s = false ∧ (x.offset < -32000 ∨ 32000 < x.offset)) ∧
    (∃ (s : State) (p : Nat) (u : RawUnit) (x : Sample), MsgMay s p u 0x52 ∧ s.time.request = some (bodyAt (headOf u) 56 4) ∧ x = sampleOf (bodyAt (headOf u) 24 8) (bodyAt (headOf u) 32 8) (bodyAt (headOf u) 40 8) s.time.now (bodyAt (headOf u) 48 4) (bodyAt (headOf u) 52 4) ∧ slowSample s x = false ∧ bodyAt (headOf u) 62 1 ≠ 0 ∧ planBinds s = true ∧ (x.offset < -32000 ∨ 32000 < x.offset)) ∧
    (∃ (s : State) (p : Nat) (u : RawUnit) (x : Sample), MsgMay s p u 0x52 ∧ sendWorks s = [] ∧ s.time.request = some (bodyAt (headOf u) 56 4) ∧ x = sampleOf (bodyAt (headOf u) 24 8) (bodyAt (headOf u) 32 8) (bodyAt (headOf u) 40 8) s.time.now (bodyAt (headOf u) 48 4) (bodyAt (headOf u) 52 4) ∧ (slowSample s x = true ∨ bodyAt (headOf u) 62 1 = 0)) ∧
    (∃ (s : State), s.time.st = .sync) ∧
    (∃ (s : State), s.time.st = .holdover ∧ s.core.active = none ∧ s.admin = none ∧ (∀ x ∈ s.ten.recs, x.2.disabling = false) ∧ s.pwr.policyNext = none ∧ s.lib.shareNext = none ∧ s.boot.warm = none) ∧
    (∃ (s : State), s.time.st = .holdover ∧ s.core.active.isSome = true) :=
  ⟨⟨{ linked up with time := { up.time with st := .sync, now := 1000, hasRoot := true, rootId := 5, parent := some (5, 1), request := some 9 }, link := { (linked up).link with up := [(5, 0xFF)] } }, 5, 1, 0, by decide +kernel⟩,
   ⟨linked up, 1, msg 0x51 [(24, 8, 5), (32, 4, 3)], by decide +kernel⟩,
   ⟨{ linked up with time := { up.time with st := .sync, now := 1000, hasRoot := true, rootId := 5, parent := some (5, 1), request := some 9 }, link := { (linked up).link with up := [(5, 0xFF)] } }, 1, msg 0x52 [(24, 8, 200), (32, 8, 1600), (40, 8, 1600), (56, 4, 9), (62, 1, 1)], sampleOf 200 1600 1600 1000 0 0, by decide +kernel⟩,
   ⟨{ linked up with time := { up.time with st := .sync, now := 1000, hasRoot := true, rootId := 5, parent := some (5, 1), request := some 9 }, link := { (linked up).link with up := [(5, 0xFF)] } }, 1, msg 0x52 [(24, 8, 200), (32, 8, 90000), (40, 8, 90000), (56, 4, 9), (62, 1, 1)], sampleOf 200 90000 90000 1000 0 0, by decide +kernel⟩,
   ⟨{ running ({ linked up with time := { up.time with st := .sync, now := 1000, hasRoot := true, rootId := 5, parent := some (5, 1), request := some 9 }, link := { (linked up).link with up := [(5, 0xFF)] } }) plan0 with pending := [] }, 1, msg 0x52 [(24, 8, 200), (32, 8, 90000), (40, 8, 90000), (56, 4, 9), (62, 1, 1)], sampleOf 200 90000 90000 1000 0 0, by decide +kernel⟩,
   ⟨{ linked up with time := { up.time with st := .sync, now := 1000, hasRoot := true, rootId := 5, parent := some (5, 1), request := some 9, delays := [0] }, link := { (linked up).link with up := [(5, 0xFF)] } }, 1, msg 0x52 [(24, 8, 200), (32, 8, 1600), (40, 8, 1600), (56, 4, 9), (62, 1, 1)], sampleOf 200 1600 1600 1000 0 0, by decide +kernel⟩,
   ⟨{ linked up with time := { up.time with st := .sync, now := 1000, hasRoot := true, rootId := 5, parent := some (5, 1), request := some 9 }, link := { (linked up).link with up := [(5, 0xFF)] } }, by decide +kernel⟩,
   ⟨{ ticking up with time := { (ticking up).time with st := .holdover } }, by decide +kernel⟩,
   ⟨{ running (ticking up) plan0 with time := { (ticking up).time with st := .holdover } }, by decide +kernel⟩⟩

theorem meets_CutsBoundariesAndLeadLoads :
    (∃ (s : State), mainOn s = true ∧ timeRuns s = true ∧ s.tick.intake ≤ s.time.now / periodNs s) ∧
    (∃ (s : State) (m : Meters), mainOn s = true ∧ timeRuns s = true ∧ resetDue s = false ∧ warmWaits s = false ∧ m.tj < 115 ∧ m.thbm < 100 ∧ (holdReads s = false ∨ tickOpen s = false) ∧ 0 < s.tick.quarters) ∧
    (∃ (s : State) (m : Meters), mainOn s = true ∧ timeRuns s = true ∧ resetDue s = false ∧ warmWaits s = false ∧ m.tj < 115 ∧ m.thbm < 100 ∧ holdReads s = true ∧ tickOpen s = true ∧ 0 < s.tick.quarters) ∧
    (∃ (s : State) (m : Meters), mainOn s = true ∧ timeRuns s = true ∧ resetDue s = false ∧ warmWaits s = true ∧ m.tj < 115 ∧ m.thbm < 100) ∧
    (∃ (s : State) (m : Meters), mainOn s = true ∧ timeRuns s = true ∧ resetDue s = false ∧ serviceUp s = true ∧ (115 ≤ m.tj ∨ 100 ≤ m.thbm) ∧ s.pin.thermtrip = false) ∧
    (∃ (s : State) (graft : Nat) (r : Ckpt) (a : Plan), runningPlan s = some a ∧ s.tick.ckptRuns.find? (fun r => r.graft == graft) = some r) ∧
    (∃ (s : State) (ws : List Insn), s.core.lead ≠ [] ∧ s.core.halted = false ∧ s.mem.poolBad = [] ∧ s.mem.hbmBad = [] ∧ leadBeyond s = none ∧ leadPoison s = none ∧ ws = s.core.lead.filterMap (leadInsn s) ∧ ws.Pairwise (fun a b => fieldOf a 25 16 ≠ fieldOf b 25 16) ∧ (∀ w ∈ ws, (slotOf s (fieldOf w 25 16)).count = 0 ∧ plainClash s w = none ∧ (blockSrc w).2 ≤ 65536)) ∧
    (∃ (s : State) (w : Insn), s.core.lead ≠ [] ∧ leadBeyond s = none ∧ w ∈ s.core.lead.filterMap (leadInsn s) ∧ ((slotOf s (fieldOf w 25 16)).count ≠ 0 ∨ plainClash s w ≠ none)) ∧
    (∃ (s : State) (a : Nat), leadBeyond s = some a) :=
  ⟨⟨ticking up, by decide +kernel⟩,
   ⟨ticking up, { meters0 with tj := 114, thbm := 99 }, by decide +kernel⟩,
   ⟨{ running (ticking up) plan0 with knot := { up.knot with hold := true } }, meters0, by decide +kernel⟩,
   ⟨{ ticking up with boot := { up.boot with warm := some { source := .rack, due := false, flush := true } } }, meters0, by decide +kernel⟩,
   ⟨ticking up, { meters0 with tj := 115 }, by decide +kernel⟩,
   ⟨{ running (ticking up) plan0 with tick := { up.tick with ckptRuns := [{ graft := 1, tick := 3, copy := 1 }] } }, 1, { graft := 1, tick := 3, copy := 1 }, plan0, by decide +kernel⟩,
   ⟨lead0 (0xC0000000 - 1), [insn [(0, 0x10), (16, 9), (48, 0xBFFFFFFF), (80, 1), (92, 0xFFF)]], by decide +kernel, by decide +kernel, by decide +kernel, by decide +kernel, by decide +kernel, by decide +kernel, by decide +kernel, by decide +kernel, List.forall_mem_singleton.mpr (by decide +kernel)⟩,
   ⟨held (lead0 (0xC0000000 - 1)) 9 none, insn [(0, 0x10), (16, 9), (48, 0xBFFFFFFF), (80, 1), (92, 0xFFF)], by decide +kernel⟩,
   ⟨lead0 0xC0000000, hbmEnd, by decide +kernel⟩⟩

theorem meets_HostMemoryRequests :
    (∃ (s : State) (ld : Nat) (line : Nat) (c : Instr), hostReaches s ld = true ∧ cutOff s ld = true ∧ (c = .cxlMemRead ld line ∨ c = .ownershipRequest ld line)) ∧
    (∃ (s : State) (ld : Nat) (_ : Nat) (_ : List Byte), hostReaches s ld = true ∧ cutOff s ld = true) ∧
    (∃ (s : State) (ld : Nat) (line : Nat) (x : CachePage), LibQuiet s ∧ hostReaches s ld = true ∧ cutOff s ld = false ∧ line < libLines s ∧ pageOf s (linePage line) = some x ∧ x.filling = false ∧ (dirOf s line = none ∧ (setEntries s line).length < 16 ∨ ∃ e, dirOf s line = some e ∧ e.owned = false)) ∧
    (∃ (s : State) (ld : Nat) (line : Nat) (x : CachePage) (e : DirEntry), LibQuiet s ∧ hostReaches s ld = true ∧ cutOff s ld = false ∧ line < libLines s ∧ pageOf s (linePage line) = some x ∧ x.filling = false ∧ dirOf s line = some e ∧ e.owned = true ∧ e.holders = ldBit ld) ∧
    (∃ (s : State) (ld : Nat) (h : Nat) (line : Nat) (x : CachePage) (e : DirEntry) (c : Instr) (k : LibKind), LibQuiet s ∧ hostReaches s ld = true ∧ cutOff s ld = false ∧ line < libLines s ∧ pageOf s (linePage line) = some x ∧ x.filling = false ∧ dirOf s line = some e ∧ e.owned = true ∧ h < 16 ∧ h ≠ ld ∧ e.holders = ldBit h ∧ s.lib.lock = none ∧ published s (linePage line) = false ∧ s.lib.readOnly = false ∧ dirtyFull s = false ∧ (c = .cxlMemRead ld line ∧ k = .read ∨ c = .ownershipRequest ld line ∧ k = .own ∨ ∃ d, c = .cxlMemWrite ld line d ∧ k = .write d)) ∧
    (∃ (s : State) (ld : Nat) (line : Nat), LibQuiet s ∧ hostReaches s ld = true ∧ cutOff s ld = false ∧ line < libLines s ∧ pageOf s (linePage line) = none ∧ s.lib.pages.length < cachePageMax s) ∧
    (∃ (s : State) (ld : Nat) (line : Nat) (x : CachePage), LibQuiet s ∧ hostReaches s ld = true ∧ cutOff s ld = false ∧ line < libLines s ∧ pageOf s (linePage line) = some x ∧ x.filling = false ∧ othersHold s ld line = false ∧ (dirOf s line = none → (setEntries s line).length < 16) ∧ s.lib.lock = none ∧ published s (linePage line) = false ∧ s.lib.readOnly = false ∧ dirtyFull s = false) ∧
    (∃ (s : State) (ld : Nat) (line : Nat) (x : CachePage), LibQuiet s ∧ hostReaches s ld = true ∧ cutOff s ld = false ∧ line < libLines s ∧ pageOf s (linePage line) = some x ∧ x.filling = false ∧ dirOf s line = none ∧ (setEntries s line).length < 16 ∧ s.lib.lock = none ∧ (published s (linePage line) = true ∨ s.lib.readOnly = true)) ∧
    (∃ (s : State) (ld : Nat) (line : Nat) (_ : List Byte) (x : CachePage), LibQuiet s ∧ hostReaches s ld = true ∧ cutOff s ld = false ∧ line < libLines s ∧ pageOf s (linePage line) = some x ∧ x.filling = false ∧ othersHold s ld line = false ∧ s.lib.lock = none ∧ published s (linePage line) = false ∧ s.lib.readOnly = false ∧ dirtyFull s = false) ∧
    (∃ (s : State) (ld : Nat) (line : Nat) (_ : List Byte), LibQuiet s ∧ hostReaches s ld = true ∧ cutOff s ld = false ∧ line < libLines s ∧ s.lib.lock = none ∧ (published s (linePage line) = true ∨ s.lib.readOnly = true)) :=
  ⟨⟨{ up with lib := { up.lib with isOpen := false } }, 0, 0, .cxlMemRead 0 0, by decide +kernel⟩,
   ⟨{ up with host := { up.host with dead := 0x8000 } }, 15, 3, [1], by decide +kernel⟩,
   ⟨cached up, 15, 63, page0, by decide +kernel, by decide +kernel, by decide +kernel, by decide +kernel, by decide +kernel, by decide +kernel, Or.inl (by decide +kernel)⟩,
   ⟨{ cached up with lib := { (cached up).lib with dir := [{ line := 63, holders := 2, owned := true, stamp := 0 }] } }, 1, 63, page0, { line := 63, holders := 2, owned := true, stamp := 0 }, by decide +kernel⟩,
   ⟨{ cached up with lib := { (cached up).lib with dir := [{ line := 63, holders := 2, owned := true, stamp := 0 }] } }, 15, 1, 63, page0, { line := 63, holders := 2, owned := true, stamp := 0 }, .cxlMemRead 15 63, .read, by decide +kernel, by decide +kernel, by decide +kernel, by decide +kernel, by decide +kernel, by decide +kernel, by decide +kernel, by decide +kernel, by decide +kernel, by decide +kernel, by decide +kernel, by decide +kernel, by decide +kernel, by decide +kernel, by decide +kernel, Or.inl ⟨rfl, rfl⟩⟩,
   ⟨up, 0, 64, by decide +kernel⟩,
   ⟨cached up, 0, 63, page0, by decide +kernel⟩,
   ⟨{ cached up with lib := { (cached up).lib with readOnly := true } }, 1, 63, page0, by decide +kernel⟩,
   ⟨cached up, 1, 63, [5], page0, by decide +kernel⟩,
   ⟨listed up, 1, 127, [5], by decide +kernel⟩⟩

theorem meets_RecallsAndHostDeath :
    (∃ (s : State) (ld : Nat) (line : Nat) (x : Snoop) (_ : Option (List Byte)), LibStill s ∧ s.lib.snoops.find? (fun x => x.ld == ld && x.line == line) = some x) ∧
    (∃ (s : State) (ld : Nat) (line : Nat), LibStill s ∧ ld < 16 ∧ snoopOut s ld line = true) :=
  ⟨⟨{ up with lib := { up.lib with snoops := [{ ld := 1, line := 3, data := false }], dir := [{ line := 3, holders := 2, owned := true, stamp := 0 }] } }, 1, 3, { ld := 1, line := 3, data := false }, none, by decide +kernel⟩,
   ⟨{ up with lib := { up.lib with snoops := [{ ld := 1, line := 3, data := false }], dir := [{ line := 3, holders := 2, owned := true, stamp := 0 }] } }, 1, 3, by decide +kernel⟩⟩

theorem meets_PagesBetweenCacheAndFlash :
    (∃ (s : State) (p : Nat) (x : CachePage) (r : EccResult), LibQuiet s ∧ memWf 0 s.lib.cache = true ∧ pageOf s p = some x ∧ x.filling = true ∧ r ≠ .uncorrectable) ∧
    (∃ (s : State) (p : Nat) (x : CachePage), LibQuiet s ∧ pageOf s p = some x ∧ x.filling = true) ∧
    (∃ (s : State) (p : Nat), LibQuiet s ∧ pageOf s p = none ∧ recordReads s p true = true ∧ s.lib.pages.length < cachePageMax s) ∧
    (∃ (s : State) (p : Nat) (x : CachePage), pageOf s p = some x ∧ x.dirty = true ∧ x.writing = false ∧ x.filling = false) ∧
    (∃ (s : State) (p : Nat) (_ : Nat) (_ : Bool) (x : CachePage), LibStill s ∧ pageOf s p = some x ∧ x.writing = true) ∧
    (∃ (s : State) (p : Nat) (_ : Nat) (_ : Bool) (x : CachePage), LibStill s ∧ pageOf s p = some x ∧ x.writing = true) :=
  ⟨⟨{ up with lib := { up.lib with pages := [{ page0 with filling := true }] } }, 0, { page0 with filling := true }, .corrected, by decide +kernel⟩,
   ⟨{ up with lib := { up.lib with pages := [{ page0 with filling := true }] } }, 0, { page0 with filling := true }, by decide +kernel⟩,
   ⟨recorded up ({ rec0 with running := true }), 0, by decide +kernel⟩,
   ⟨{ up with lib := { up.lib with pages := [{ page0 with dirty := true }] } }, 0, { page0 with dirty := true }, by decide +kernel⟩,
   ⟨{ up with lib := { up.lib with pages := [{ page0 with writing := true, snap := List.replicate 64 5 }] } }, 0, 0, true, { page0 with writing := true, snap := List.replicate 64 5 }, by decide +kernel⟩,
   ⟨{ up with lib := { up.lib with pages := [{ page0 with writing := true, snap := [5] }] } }, 0, 100, false, { page0 with writing := true, snap := [5] }, by decide +kernel⟩⟩

theorem meets_PublishAnImage :
    (∃ (s : State) (d : Desc), AdminMay s d 0x40 ∧ publishRefusal s (aArg0 d) (aArg1 d) ≠ 0) ∧
    (∃ (s : State) (d : Desc), AdminMay s d 0x40 ∧ LibQuiet s ∧ publishRefusal s (aArg0 d) (aArg1 d) = 0 ∧ (∃ e ∈ s.lib.dir, inRange (aArg0 d) (aArg1 d) (linePage e.line) = true)) ∧
    (∃ (s : State) (d : Desc), AdminMay s d 0x40 ∧ LibQuiet s ∧ publishRefusal s (aArg0 d) (aArg1 d) = 0 ∧ (∀ e ∈ s.lib.dir, inRange (aArg0 d) (aArg1 d) (linePage e.line) = false) ∧ (∀ x ∈ s.lib.pages, inRange (aArg0 d) (aArg1 d) x.page = true → x.dirty = false ∧ x.writing = false) ∧ imgCheck (imageMeta s (aArg0 d) (aArg1 d)) (4096 * aArg1 d) (otherImages s (aArg0 d)) = 0) ∧
    (∃ (s : State) (d : Desc), AdminMay s d 0x40 ∧ LibQuiet s ∧ publishRefusal s (aArg0 d) (aArg1 d) = 0 ∧ (∀ e ∈ s.lib.dir, inRange (aArg0 d) (aArg1 d) (linePage e.line) = false) ∧ imgCheck (imageMeta s (aArg0 d) (aArg1 d)) (4096 * aArg1 d) (otherImages s (aArg0 d)) ≠ 0) :=
  ⟨⟨adm (listed up) (desc [(0, 64), (256, 2)]), desc [(0, 64), (256, 2)], by decide +kernel⟩,
   ⟨adm ({ up with lib := { up.lib with dir := [{ line := 127, holders := 2, owned := true, stamp := 0 }] } }) (desc [(0, 64), (256, 2)]), desc [(0, 64), (256, 2)], by decide +kernel⟩,
   ⟨adm ({ up with lib := { up.lib with flash := memWrite 0 [] 0 libImage0 } }) (desc [(0, 64), (256, 2)]), desc [(0, 64), (256, 2)], by decide +kernel⟩,
   ⟨adm (up) (desc [(0, 64), (256, 2)]), desc [(0, 64), (256, 2)], by decide +kernel⟩⟩

theorem meets_RetireAnImage :
    (∃ (s : State) (d : Desc), AdminMay s d 0x41 ∧ s.lib.isOpen = false) ∧
    (∃ (s : State) (d : Desc), AdminMay s d 0x41 ∧ s.lib.isOpen = true ∧ (¬ ∃ e ∈ s.lib.catalog, e.first = aArg0 d ∧ e.pages = aArg1 d)) ∧
    (∃ (s : State) (d : Desc), AdminMay s d 0x41 ∧ s.lib.isOpen = true ∧ (∃ e ∈ s.lib.catalog, e.first = aArg0 d ∧ e.pages = aArg1 d) ∧ (∃ r ∈ s.lib.recs, r.first = aArg0 d)) ∧
    (∃ (s : State) (d : Desc), AdminMay s d 0x41 ∧ s.lib.isOpen = true ∧ (∃ e ∈ s.lib.catalog, e.first = aArg0 d ∧ e.pages = aArg1 d) ∧ (¬ ∃ r ∈ s.lib.recs, r.first = aArg0 d)) :=
  ⟨⟨adm ({ up with lib := { up.lib with isOpen := false } }) (desc [(0, 65), (256, 2)]), desc [(0, 65), (256, 2)], by decide +kernel⟩,
   ⟨adm (up) (desc [(0, 65), (256, 2)]), desc [(0, 65), (256, 2)], by decide +kernel⟩,
   ⟨adm (recorded (listed up) rec0) (desc [(0, 65), (256, 2)]), desc [(0, 65), (256, 2)], by decide +kernel⟩,
   ⟨adm (listed up) (desc [(0, 65), (256, 2)]), desc [(0, 65), (256, 2)], by decide +kernel⟩⟩

theorem meets_PrefetchRecords :
    (∃ (s : State) (d : Desc) (e : CatalogEntry) (id : Nat), AdminMay s d 0x42 ∧ bitsOf (aArg0 d) 31 30 = 0 ∧ s.lib.isOpen = true ∧ s.lib.catalog.find? (fun e => e.first == bitsOf (aArg0 d) 29 0) = some e ∧ (s.lib.recs.filter (·.running)).length < 8 ∧ freeRecord s = some id ∧ recordPlaced s (recordFor s d e id) = true ∧ (bitAt (aArg0 d) 33 = false ∨ (keyOf s (bitsOf (aArg2 d) 55 48)).map (·.keyId) = some e.keyId)) ∧
    (∃ (s : State) (d : Desc), AdminMay s d 0x42 ∧ bitsOf (aArg0 d) 31 30 = 0 ∧ s.lib.isOpen = false) ∧
    (∃ (s : State) (d : Desc), AdminMay s d 0x42 ∧ bitsOf (aArg0 d) 31 30 = 0 ∧ s.lib.isOpen = true ∧ s.lib.catalog.find? (fun e => e.first == bitsOf (aArg0 d) 29 0) = none) ∧
    (∃ (s : State) (d : Desc) (e : CatalogEntry), AdminMay s d 0x42 ∧ bitsOf (aArg0 d) 31 30 = 0 ∧ s.lib.isOpen = true ∧ s.lib.catalog.find? (fun e => e.first == bitsOf (aArg0 d) 29 0) = some e ∧ (8 ≤ (s.lib.recs.filter (·.running)).length ∨ freeRecord s = none)) ∧
    (∃ (s : State) (d : Desc) (e : CatalogEntry) (id : Nat), AdminMay s d 0x42 ∧ bitsOf (aArg0 d) 31 30 = 0 ∧ s.lib.isOpen = true ∧ s.lib.catalog.find? (fun e => e.first == bitsOf (aArg0 d) 29 0) = some e ∧ (s.lib.recs.filter (·.running)).length < 8 ∧ freeRecord s = some id ∧ (recordPlaced s (recordFor s d e id) = false ∨ bitAt (aArg0 d) 33 = true ∧ (keyOf s (bitsOf (aArg2 d) 55 48)).map (·.keyId) ≠ some e.keyId)) ∧
    (∃ (s : State) (d : Desc) (r : PrefetchRec), AdminMay s d 0x42 ∧ bitsOf (aArg0 d) 31 30 = 1 ∧ recordOf s (aArg1 d) = some r ∧ r.running = true) ∧
    (∃ (s : State) (d : Desc), AdminMay s d 0x42 ∧ bitsOf (aArg0 d) 31 30 = 1 ∧ (∀ r, recordOf s (aArg1 d) = some r → r.running = false)) ∧
    (∃ (s : State) (a : State) (id : Nat) (r : PrefetchRec), recordOf s id = some r ∧ r.running = true ∧ r.cancelling = false ∧ s.lib.isOpen = true ∧ (recPages s r).foldl recReadPage (true, s) = (true, a) ∧ (stageEnd s r).1 = 0) ∧
    (∃ (s : State) (a : State) (id : Nat) (r : PrefetchRec), recordOf s id = some r ∧ r.running = true ∧ r.cancelling = false ∧ s.lib.isOpen = true ∧ (recPages s r).foldl recReadPage (true, s) = (true, a) ∧ (stageEnd s r).1 ≠ 0) ∧
    (∃ (s : State) (a : State) (id : Nat) (r : PrefetchRec), recordOf s id = some r ∧ r.running = true ∧ r.cancelling = false ∧ s.lib.isOpen = true ∧ (recPages s r).foldl recReadPage (true, s) = (false, a)) ∧
    (∃ (s : State) (id : Nat) (r : PrefetchRec), recordOf s id = some r ∧ r.running = true ∧ r.cancelling = true) :=
  ⟨⟨adm (listed up) (desc [(0, 66), (192, 4294967296), (256, 4194304)]), desc [(0, 66), (192, 4294967296), (256, 4194304)], entry0, 0, by decide +kernel⟩,
   ⟨adm ({ up with lib := { up.lib with isOpen := false } }) (desc [(0, 66), (192, 4294967296), (256, 4194304)]), desc [(0, 66), (192, 4294967296), (256, 4194304)], by decide +kernel⟩,
   ⟨adm (up) (desc [(0, 66), (192, 4294967296), (256, 4194304)]), desc [(0, 66), (192, 4294967296), (256, 4194304)], by decide +kernel⟩,
   ⟨adm ({ listed up with lib := { (listed up).lib with recs := List.replicate 8 ({ rec0 with running := true }) } }) (desc [(0, 66), (192, 4294967296), (256, 4194304)]), desc [(0, 66), (192, 4294967296), (256, 4194304)], entry0, by decide +kernel⟩,
   ⟨adm (listed up) (desc [(0, 66), (192, 12884901888), (256, 4194304)]), desc [(0, 66), (192, 12884901888), (256, 4194304)], entry0, 0, by decide +kernel⟩,
   ⟨adm (recorded up ({ rec0 with running := true })) (desc [(0, 66), (192, 1073741824), (256, 0)]), desc [(0, 66), (192, 1073741824), (256, 0)], { rec0 with running := true }, by decide +kernel⟩,
   ⟨adm (up) (desc [(0, 66), (192, 1073741824), (256, 0)]), desc [(0, 66), (192, 1073741824), (256, 0)], by decide +kernel, by decide +kernel, none_all1 (by decide +kernel)⟩,
   ⟨{ up with lib := { up.lib with recs := [{ rec0 with running := true, sh0 := false }], flash := memWrite 0 [] 0 libImage0 } }, _, 0, { rec0 with running := true, sh0 := false }, by decide +kernel, by decide +kernel, by decide +kernel, by decide +kernel, pair_of (by decide +kernel), by decide +kernel⟩,
   ⟨recorded up ({ rec0 with running := true }), _, 0, { rec0 with running := true }, by decide +kernel, by decide +kernel, by decide +kernel, by decide +kernel, pair_of (by decide +kernel), by decide +kernel⟩,
   ⟨{ recorded up ({ rec0 with running := true }) with lib := { (recorded up ({ rec0 with running := true })).lib with cacheGibInUse := 0 } }, _, 0, { rec0 with running := true }, by decide +kernel, by decide +kernel, by decide +kernel, by decide +kernel, pair_of (by decide +kernel)⟩,
   ⟨recorded up ({ rec0 with running := true, cancelling := true }), 0, { rec0 with running := true, cancelling := true }, by decide +kernel⟩⟩

theorem meets_UnstageOfPrefetchRecords :
    (∃ (s : State) (d : Desc) (r : PrefetchRec), AdminMay s d 0x42 ∧ bitsOf (aArg0 d) 31 30 = 2 ∧ recordOf s (aArg1 d) = some r ∧ r.running = false ∧ (¬ InitNamed s r)) ∧
    (∃ (s : State) (d : Desc) (r : PrefetchRec), AdminMay s d 0x42 ∧ bitsOf (aArg0 d) 31 30 = 2 ∧ recordOf s (aArg1 d) = some r ∧ (r.running = true ∨ InitNamed s r)) ∧
    (∃ (s : State) (d : Desc), AdminMay s d 0x42 ∧ bitsOf (aArg0 d) 31 30 = 2 ∧ recordOf s (aArg1 d) = none) :=
  ⟨⟨adm (recorded up rec0) (desc [(0, 66), (192, 2147483648), (256, 0)]), desc [(0, 66), (192, 2147483648), (256, 0)], rec0, by decide +kernel, by decide +kernel, by decide +kernel, by decide +kernel, initNamed_none _ rfl rfl⟩,
   ⟨adm (recorded { up with core := { up.core with active := some { plan0 with models := [{ model0 with initAddr := 2 ^ 23 }] } } } rec0) (desc [(0, 66), (192, 2147483648), (256, 0)]), desc [(0, 66), (192, 2147483648), (256, 0)], rec0, by decide +kernel, by decide +kernel, by decide +kernel, Or.inr (initNamed_some _ _ { model0 with initAddr := 2 ^ 23 } rfl (by decide) (by decide) (by decide))⟩,
   ⟨adm (up) (desc [(0, 66), (192, 2147483648), (256, 0)]), desc [(0, 66), (192, 2147483648), (256, 0)], by decide +kernel⟩⟩

theorem meets_FirmwareByAdminRing :
    (∃ (s : State) (d : Desc) (_ : DmaRead) (_ : Bool), AdminMay s d 0x60 ∧ fwRefusal s false ≠ 0) ∧
    (∃ (s : State) (d : Desc) (_ : DmaRead) (_ : Bool), AdminMay s d 0x60 ∧ fwRefusal s false = 0 ∧ offsetBad s d = true) ∧
    (∃ (s : State) (d : Desc) (b : List Byte) (_ : Bool), BufferMay s d 0x60 ∧ fwRefusal s false = 0 ∧ fbOffset d = 0 ∧ b.length = aLen d ∧ fwImageLen (b.take 4096) < aLen d) ∧
    (∃ (s : State) (d : Desc) (b : List Byte) (_ : Bool), BufferMay s d 0x60 ∧ fwRefusal s false = 0 ∧ fbOffset d = 0 ∧ b.length = aLen d ∧ aLen d ≤ fwImageLen (b.take 4096) ∧ s.stw.fw ≠ .receiving ∧ fwCheckHeader s (b.take 4096) true ≠ 0) ∧
    (∃ (s : State) (d : Desc) (b : List Byte), BufferMay s d 0x60 ∧ fwRefusal s false = 0 ∧ fbOffset d = 0 ∧ b.length = aLen d ∧ 4096 ≤ aLen d ∧ aLen d < fwImageLen (b.take 4096) ∧ s.stw.fw ≠ .receiving ∧ fwCheckHeader s (b.take 4096) true = 0 ∧ provisioning s = false) ∧
    (∃ (s : State) (d : Desc) (b : List Byte), BufferMay s d 0x60 ∧ fwRefusal s false = 0 ∧ offsetBad s d = false ∧ 4096 ≤ fbOffset d ∧ b.length = aLen d ∧ fbOffset d + aLen d < fwImageLen s.stw.header ∧ provisioning s = false) ∧
    (∃ (s : State) (d : Desc) (b : List Byte), BufferMay s d 0x60 ∧ fwRefusal s false = 0 ∧ offsetBad s d = false ∧ 4096 ≤ fbOffset d ∧ b.length = aLen d ∧ fbOffset d + aLen d = fwImageLen s.stw.header ∧ provisioning s = false) ∧
    (∃ (s : State) (d : Desc) (_ : List Byte), BufferMay s d 0x60 ∧ fwRefusal s false = 0 ∧ offsetBad s d = false ∧ 4096 ≤ fbOffset d ∧ provisioning s = false) ∧
    (∃ (s : State) (d : Desc) (c : Instr), AdminMay s d 0x61 ∧ (aArg0 d = 0 ∧ c = .fwActivateNow d ∨ aArg0 d = 1 ∧ c = .fwActivateAtReset d) ∧ activateStatus s ≠ 0) ∧
    (∃ (s : State) (d : Desc), AdminMay s d 0x61 ∧ aArg0 d = 1 ∧ activateStatus s = 0) ∧
    (∃ (s : State) (d : Desc), AdminMay s d 0x61 ∧ aArg0 d = 0 ∧ activateStatus s = 0 ∧ s.boot.warm = none) ∧
    (∃ (s : State) (d : Desc), AdminMay s d 0x61 ∧ aArg0 d = 2 ∧ (bootRec s).pending = 0xFF ∧ memWf 0xFF s.stw.spi = true) ∧
    (∃ (s : State) (d : Desc), AdminMay s d 0x61 ∧ aArg0 d = 2 ∧ (bootRec s).pending ≠ 0xFF ∧ s.stw.fw ≠ .receiving) :=
  ⟨⟨adm ({ up with stw := { up.stw with fw := .receiving, pathService := true } }) (desc [(0, 96), (96, 64), (192, 4096)]), desc [(0, 96), (96, 64), (192, 4096)], .error, true, by decide +kernel⟩,
   ⟨adm (up) (desc [(0, 96), (96, 64), (192, 4096)]), desc [(0, 96), (96, 64), (192, 4096)], .error, true, by decide +kernel⟩,
   ⟨adm (up) (desc [(0, 96), (96, 64)]), desc [(0, 96), (96, 64)], List.replicate 64 0, true, by decide +kernel⟩,
   ⟨adm (up) (desc [(0, 96), (96, 64)]), desc [(0, 96), (96, 64)], leBytes 64 (word [(64, 64)]), false, by decide +kernel⟩,
   ⟨adm ({ up with fuse := { up.fuse with keyDigests := [keyDigest0] } }) (desc [(0, 96), (96, 4096)]), desc [(0, 96), (96, 4096)], fwHead0, by decide +kernel, by decide +kernel, by decide +kernel, by decide +kernel, by decide +kernel, by decide +kernel, by decide +kernel, (by rw [take0]; exact head0_passes _ (by decide +kernel) (by decide +kernel) (by decide +kernel)), by decide +kernel⟩,
   ⟨adm ({ up with stw := { up.stw with fw := .receiving, nextOffset := 4096, header := leBytes 16 (word [(64, 8192)]) } }) (desc [(0, 96), (96, 64), (192, 4096)]), desc [(0, 96), (96, 64), (192, 4096)], List.replicate 64 5, by decide +kernel⟩,
   ⟨adm ({ up with stw := { up.stw with fw := .receiving, nextOffset := 4096, header := leBytes 16 (word [(64, 4160)]) } }) (desc [(0, 96), (96, 64), (192, 4096)]), desc [(0, 96), (96, 64), (192, 4096)], List.replicate 64 5, by decide +kernel⟩,
   ⟨adm ({ up with stw := { up.stw with fw := .receiving, nextOffset := 4096, header := leBytes 16 (word [(64, 4160)]) } }) (desc [(0, 96), (96, 64), (192, 4096)]), desc [(0, 96), (96, 64), (192, 4096)], [], by decide +kernel⟩,
   ⟨adm (up) (desc [(0, 97)]), desc [(0, 97)], .fwActivateNow (desc [(0, 97)]), by decide +kernel⟩,
   ⟨adm ({ up with stw := { up.stw with spi := memWrite 0xFF [] 0x1800000 fwHead0 } }) (desc [(0, 97), (192, 1)]), desc [(0, 97), (192, 1)], by decide +kernel⟩,
   ⟨adm ({ up with stw := { up.stw with spi := memWrite 0xFF [] 0x1800000 fwHead0 } }) (desc [(0, 97)]), desc [(0, 97)], by decide +kernel⟩,
   ⟨adm (up) (desc [(0, 97), (192, 2)]), desc [(0, 97), (192, 2)], by decide +kernel⟩,
   ⟨adm (recWrite up 0 1 0 marksClear) (desc [(0, 97), (192, 2)]), desc [(0, 97), (192, 2)], by decide +kernel⟩⟩

theorem meets_FirmwareByServicePort :
    (∃ (s : State), PldmServed s) ∧
    (∃ (s : State), PldmServed s) ∧
    (∃ (s : State), PldmServed s) ∧
    (∃ (s : State), PldmServed s ∧ s.stw.pldm = .idle ∧ fwBusy s true = false ∧ fwRefusal s true = 0) ∧
    (∃ (s : State), PldmServed s ∧ (s.stw.pldm ≠ .idle ∨ fwBusy s true = true)) ∧
    (∃ (s : State), PldmServed s ∧ s.stw.pldm = .idle ∧ fwBusy s true = false ∧ fwRefusal s true ≠ 0) ∧
    (∃ (s : State), PldmServed s ∧ s.stw.pldm = .learning) ∧
    (∃ (s : State) (c : FwComponent), PldmServed s ∧ s.stw.pldm = .learning ∧ c ≠ firmwareComponent) ∧
    (∃ (s : State), PldmServed s ∧ s.stw.pldm = .ready ∧ fwRefusal s true = 0) ∧
    (∃ (s : State) (c : FwComponent), PldmServed s ∧ s.stw.pldm = .ready ∧ c ≠ firmwareComponent) ∧
    (∃ (s : State), PldmServed s ∧ s.stw.pldm = .ready ∧ fwRefusal s true ≠ 0) ∧
    (∃ (s : State) (_ : List Byte) (_ : Bool), PldmServed s ∧ s.stw.pldm = .download ∧ s.stw.header.length = s.stw.nextOffset ∧ s.stw.nextOffset < 3072) ∧
    (∃ (s : State) (b : List Byte) (h : List Byte) (_ : Bool), PldmServed s ∧ s.stw.pldm = .download ∧ s.stw.header.length = 3072 ∧ s.stw.nextOffset = 3072 ∧ h = s.stw.header ++ padTo 1024 b ∧ s.stw.fw ≠ .receiving ∧ fwRefusal s true = 0 ∧ fwCheckHeader s h true ≠ 0) ∧
    (∃ (s : State) (b : List Byte) (h : List Byte), PldmServed s ∧ s.stw.pldm = .download ∧ s.stw.header.length = 3072 ∧ s.stw.nextOffset = 3072 ∧ h = s.stw.header ++ padTo 1024 b ∧ s.stw.fw ≠ .receiving ∧ fwRefusal s true = 0 ∧ fwCheckHeader s h true = 0 ∧ provisioning s = false ∧ 4096 < fwImageLen h) ∧
    (∃ (s : State) (b : List Byte), PldmServed s ∧ s.stw.pldm = .download ∧ 4096 ≤ s.stw.nextOffset ∧ b.length = 1024 ∧ provisioning s = false ∧ s.stw.nextOffset + 1024 < fwImageLen s.stw.header) ∧
    (∃ (s : State) (_ : List Byte), PldmServed s ∧ s.stw.pldm = .download ∧ s.stw.fw = .receiving ∧ 4096 ≤ s.stw.nextOffset ∧ provisioning s = false ∧ fwImageLen s.stw.header = s.stw.nextOffset + 1024) ∧
    (∃ (s : State) (_ : Bool), s.boot.phase = .firmware ∧ s.stw.pldm = .complete ∧ activateStatus s = 0 ∧ s.boot.warm = none) ∧
    (∃ (s : State) (_ : Bool), s.boot.phase = .firmware ∧ s.stw.pldm = .complete ∧ activateStatus s ≠ 0) ∧
    (∃ (s : State) (_ : Bool), s.boot.phase = .recovery ∧ s.stw.pldm = .complete ∧ s.boot.warm = none) ∧
    (∃ (s : State), PldmServed s ∧ s.stw.pldm = .download) ∧
    (∃ (s : State), PldmServed s ∧ s.stw.pldm ≠ .idle) ∧
    (∃ (s : State) (c : Instr), PldmServed s ∧ ((∃ k, c = .passComponentTable k ∧ s.stw.pldm ≠ .learning) ∨ (∃ k, c = .updateComponent k ∧ s.stw.pldm ≠ .ready) ∨ (∃ k, c = .activateFirmware k ∧ s.stw.pldm ≠ .complete) ∨ (c = .cancelUpdateComponent ∧ s.stw.pldm ≠ .download) ∨ (c = .cancelUpdate ∧ s.stw.pldm = .idle))) ∧
    (∃ (s : State), s.stw.fw = .receiving) :=
  ⟨⟨up, by decide +kernel⟩,
   ⟨{ up with boot := { up.boot with phase := .recovery } }, by decide +kernel⟩,
   ⟨up, by decide +kernel⟩,
   ⟨up, by decide +kernel⟩,
   ⟨{ up with stw := { up.stw with pldm := .ready } }, by decide +kernel⟩,
   ⟨recWrite up 0 1 0 marksClear, by decide +kernel⟩,
   ⟨{ up with stw := { up.stw with pldm := .learning } }, by decide +kernel⟩,
   ⟨{ up with stw := { up.stw with pldm := .learning } }, { classification := 11, identifier := 1 }, by decide +kernel⟩,
   ⟨{ up with stw := { up.stw with pldm := .ready } }, by decide +kernel⟩,
   ⟨{ up with stw := { up.stw with pldm := .ready } }, { classification := 10, identifier := 2 }, by decide +kernel⟩,
   ⟨{ recWrite up 0 1 0 marksClear with stw := { (recWrite up 0 1 0 marksClear).stw with pldm := .ready } }, by decide +kernel⟩,
   ⟨{ up with stw := { up.stw with pldm := .download } }, [1], true, by decide +kernel⟩,
   ⟨{ up with stw := { up.stw with pldm := .download, nextOffset := 3072, header := List.replicate 3072 0 } }, [1], List.replicate 3072 0 ++ padTo 1024 [1], true, by decide +kernel⟩,
   ⟨{ { up with fuse := { up.fuse with keyDigests := [keyDigest0] } } with stw := { up.stw with pldm := .download, nextOffset := 3072, header := fwHead0.take 3072 } }, fwHead0.drop 3072, fwHead0, by decide +kernel, by decide +kernel, by decide +kernel, by decide +kernel, by decide +kernel, by decide +kernel, by decide +kernel, head0_passes _ (by decide +kernel) (by decide +kernel) (by decide +kernel), by decide +kernel, by decide +kernel⟩,
   ⟨{ up with stw := { up.stw with pldm := .download, nextOffset := 4096, header := leBytes 16 (word [(64, 8192)]) } }, List.replicate 1024 7, by decide +kernel⟩,
   ⟨{ up with stw := { up.stw with pldm := .download, fw := .receiving, nextOffset := 4096, header := leBytes 16 (word [(64, 5120)]) } }, [1], by decide +kernel⟩,
   ⟨{ up with stw := { up.stw with pldm := .complete, spi := memWrite 0xFF [] 0x1800000 fwHead0 } }, true, by decide +kernel⟩,
   ⟨{ up with stw := { up.stw with pldm := .complete } }, false, by decide +kernel⟩,
   ⟨{ { up with stw := { up.stw with pldm := .complete } } with boot := { up.boot with phase := .recovery } }, true, by decide +kernel⟩,
   ⟨{ up with stw := { up.stw with pldm := .download } }, by decide +kernel⟩,
   ⟨{ up with stw := { up.stw with pldm := .complete } }, by decide +kernel⟩,
   ⟨up, .updateComponent { classification := 10, identifier := 1 }, Or.inl rfl, Or.inr (Or.inl ⟨_, rfl, by decide +kernel⟩)⟩,
   ⟨{ up with stw := { up.stw with fw := .receiving } }, by decide +kernel⟩⟩

theorem meets_ServicePortReadsAndAnchors :
    (∃ (s : State) (k : SensorKind), s.boot.phase = .firmware ∧ k ≠ .modulePower) ∧
    (∃ (s : State), s.boot.phase = .firmware ∧ 4 * s.pwr.eLast % s.tick.quarters = 0) ∧
    (∃ (s : State), s.boot.phase = .firmware ∧ 4 * s.pwr.eLast % s.tick.quarters ≠ 0) ∧
    (∃ (s : State), s.boot.phase = .firmware) ∧
    (∃ (s : State) (eid : Nat), PldmServed s ∧ eidValid eid = true) ∧
    (∃ (s : State) (eid : Nat), PldmServed s ∧ eidValid eid = false) ∧
    (∃ (s : State), PldmServed s) ∧
    (∃ (s : State) (tid : Nat), s.boot.phase = .firmware ∧ tidValid tid = true) ∧
    (∃ (s : State), s.boot.phase = .firmware) ∧
    (∃ (s : State) (_ : Nat) (len : Nat), s.boot.phase = .firmware ∧ vendorLenOk 0 len = true) ∧
    (∃ (s : State) (_ : Nat) (len : Nat), PldmServed s ∧ vendorLenOk 1 len = true) ∧
    (∃ (s : State) (_ : Nat) (len : Nat), s.boot.phase = .firmware ∧ vendorLenOk 2 len = true ∧ s.err.pmUnread = true) ∧
    (∃ (s : State) (src : Nat) (_ : Nat) (len : Nat), s.boot.phase = .firmware ∧ (vendorLenOk src len = false ∨ src = 2 ∧ s.err.pmUnread = false)) ∧
    (∃ (s : State) (r : LogRec) (rest : List LogRec), PldmServed s ∧ s.err.unread = r :: rest) ∧
    (∃ (s : State) (d : Nat), s.boot.phase ≠ .held ∧ s.time.logNs + d = s.err.anchorNs + 3600000000000 ∧ (mainOn s = false ∨ beforeBoundary s (timeAfter s d / 1000000) = true)) :=
  ⟨⟨up, .tickEnergy, by decide +kernel⟩,
   ⟨up, by decide +kernel⟩,
   ⟨{ up with pwr := { up.pwr with eLast := 1 } }, by decide +kernel⟩,
   ⟨up, by decide +kernel⟩,
   ⟨up, 254, by decide +kernel⟩,
   ⟨up, 255, by decide +kernel⟩,
   ⟨{ up with boot := { up.boot with phase := .recovery } }, by decide +kernel⟩,
   ⟨up, 1, by decide +kernel⟩,
   ⟨up, by decide +kernel⟩,
   ⟨up, 0, 262144, by decide +kernel⟩,
   ⟨up, 0, 1048576, by decide +kernel⟩,
   ⟨{ up with err := { up.err with pmUnread := true } }, 0, 17408, by decide +kernel⟩,
   ⟨up, 2, 0, 17408, by decide +kernel⟩,
   ⟨{ up with err := { up.err with unread := [{ seq := 3, time := 4, scope := 2, code := 3, tenant := 0, posted := false, fault := false, stream := 0, detail := 0, tick := 0, returned := false }] } }, { seq := 3, time := 4, scope := 2, code := 3, tenant := 0, posted := false, fault := false, stream := 0, detail := 0, tick := 0, returned := false }, [], by decide +kernel⟩,
   ⟨up, 3600000000000, by decide +kernel⟩⟩

theorem meets_PatrolScrub :
    (∃ (s : State) (u : Nat), mainOn s = true ∧ s.boot.hbmOk = true ∧ 64 * u < hbmEnd) ∧
    (∃ (s : State) (u : Nat), mainOn s = true ∧ s.boot.hbmOk = true ∧ 64 * u < hbmEnd ∧ hbmCritical s u = false ∧ hbmCached s u = false) ∧
    (∃ (s : State) (u : Nat), mainOn s = true ∧ s.boot.hbmOk = true ∧ 64 * u < hbmEnd ∧ hbmCritical s u = true) ∧
    (∃ (s : State) (u : Nat), mainOn s = true ∧ s.boot.hbmOk = true ∧ 64 * u < hbmEnd ∧ hbmCritical s u = false ∧ hbmCached s u = true) ∧
    (∃ (s : State) (w : Nat), mainOn s = true ∧ 8 * w < 0x8000000) ∧
    (∃ (s : State) (w : Nat), mainOn s = true ∧ 8 * w < 0x8000000 ∧ poolCritical (w / 8) = false) ∧
    (∃ (s : State) (w : Nat), mainOn s = true ∧ 8 * w < 0x8000000 ∧ poolCritical (w / 8) = true) :=
  ⟨⟨up, 0xC0000000 - 1, by decide +kernel⟩,
   ⟨up, 65536, by decide +kernel⟩,
   ⟨up, 65535, by decide +kernel⟩,
   ⟨up, 0xC0000000 - 1, by decide +kernel⟩,
   ⟨up, 0x1000000 - 1, by decide +kernel⟩,
   ⟨up, 0, by decide +kernel⟩,
   ⟨up, 0x1000000 - 1, by decide +kernel⟩⟩

theorem meets_ClosedLibraryWindow :
    (∃ (s : State) (ld : Nat) (line : Nat) (c : Instr), hostReaches s ld = true ∧ s.lib.isOpen = false ∧ (c = .cxlMemRead ld line ∨ c = .ownershipRequest ld line)) ∧
    (∃ (s : State) (ld : Nat) (_ : Nat) (_ : List Byte), hostReaches s ld = true ∧ s.lib.isOpen = false ∧ s.host.closedLogged.toNat.testBit ld = false) ∧
    (∃ (s : State) (ld : Nat) (_ : Nat) (_ : List Byte), hostReaches s ld = true ∧ s.lib.isOpen = false ∧ s.host.closedLogged.toNat.testBit ld = true) ∧
    (∃ (s : State) (_ : State) (ld : Nat) (line : Nat) (data : List Byte) (c : Instr), s.lib.isOpen = false ∧ (c = .cxlMemRead ld line ∨ c = .ownershipRequest ld line ∨ c = .cxlMemWrite ld line data)) :=
  ⟨⟨{ up with lib := { up.lib with isOpen := false } }, 15, 0, .ownershipRequest 15 0, by decide +kernel⟩,
   ⟨{ up with lib := { up.lib with isOpen := false } }, 15, 0, [1], by decide +kernel⟩,
   ⟨{ { up with lib := { up.lib with isOpen := false } } with host := { up.host with closedLogged := 0x8000 } }, 15, 0, [1], by decide +kernel⟩,
   ⟨{ up with lib := { up.lib with isOpen := false } }, up, 15, 0, [1], .cxlMemWrite 15 0 [1], by decide +kernel⟩⟩

theorem meets_KeySlotsInUse :
    (∃ (_ : State) (k : Nat), k < 256) ∧
    (∃ (_ : State) (k : Nat), 256 ≤ k) ∧
    (∃ (s : State) (d : Desc), AdminMay s d 0x21 ∧ keyInUse s (aArg0 d) = true) ∧
    (∃ (s : State) (d : Desc), AdminMay s d 0x21 ∧ keyInUse s (aArg0 d) = false ∧ keyOf s (aArg0 d) = none) :=
  ⟨⟨running up plan0, 255, by decide +kernel⟩,
   ⟨running up plan0, 256, by decide +kernel⟩,
   ⟨adm (running up plan0) (desc [(0, 33), (192, 2)]), desc [(0, 33), (192, 2)], by decide +kernel⟩,
   ⟨adm (running up plan0) (desc [(0, 33), (192, 3)]), desc [(0, 33), (192, 3)], by decide +kernel⟩⟩

theorem meets_StepRunsTheFrontCommand :
    (∃ (s : State), s.pending = [] ∧ serviceUp s = true ∧ (timeRuns s = false ∨ timeAfter s 1 / 1000000 < nextEventNs s)) ∧
    (∃ (s : State), s.pending = [] ∧ (serviceUp s = false ∨ timeRuns s = true ∧ nextEventNs s ≤ timeAfter s 1 / 1000000)) :=
  ⟨⟨up, by decide +kernel⟩,
   ⟨{ ticking up with time := { (ticking up).time with now := 9499999 } }, by decide +kernel⟩⟩

theorem meets_FusesAndThermtripStay : ∃ (s : State) (t : State), step s = .next t :=
  ⟨{ up with pending := [.mainEnRequest] }, up, rfl⟩

theorem meets_MemoriesStayCanonical : ∃ (s : State) (t : State), MemoriesWf s ∧ step s = .next t :=
  ⟨{ up with pending := [.mainEnRequest] }, up, ⟨rfl, rfl, rfl, rfl, rfl⟩, rfl⟩

theorem meets_CommandsLeaveTheQueue :
    (∃ (c : Instr) (_ : State), c ≠ .leadLoadsDone ∧ (∀ w, c ≠ .loadBlock w ∧ c ≠ .loadStage w ∧ c ≠ .loadSpill w ∧ c ≠ .loadCopy w)) ∧
    (∃ (w : Insn) (s : State) (f : Fault), (exec (.loadStage w) s = .fault f ∨ exec (.loadSpill w) s = .fault f)) :=
  ⟨⟨.mainEnRequest, up, nofun, fun _ => ⟨nofun, nofun, nofun, nofun⟩⟩,
   ⟨insn [(0, 17), (40, 1), (78, 1)], runs (withStream { up with str := { up.str with work := [work0] } } 5 { boundStream with stateAddr := hbmEnd }) 0 (insn [(0, 17), (40, 1), (78, 1)]), .hbmRange hbmEnd, Or.inl rfl⟩⟩

end Sys2Proof.Tests
end

section
/-! PROOFS. The closed library window (R67): what a host's request does while it is closed. -/

namespace Sys2Proof.Machine

/-! ### Hosts and their bits -/

theorem ld_lt_of_hostReaches {s : State} {ld : Nat} (h : hostReaches s ld = true) : ld < 16 := by
  simp only [hostReaches, Bool.and_eq_true, decide_eq_true_eq] at h
  exact h.1.2

theorem testBit_or_ldBit (v : BitVec 16) {ld : Nat} (h : ld < 16) : (v ||| ldBit ld).toNat.testBit ld = true := by
  have hlt : 2 ^ ld < 2 ^ 16 := Nat.pow_lt_pow_right (by decide) h
  have hbit : (ldBit ld).toNat = 2 ^ ld := by rw [ldBit, BitVec.toNat_ofNat, Nat.mod_eq_of_lt hlt]
  simp [BitVec.toNat_or, Nat.testBit_or, hbit, Nat.testBit_two_pow_self]

/-! ### A NOTE record leaves the library and the hosts already logged -/

theorem note_lib (s : State) (kind who : Nat) : (note s kind who).lib = s.lib := note_frame s kind who .lib (by decide)

theorem note_closedLogged (s : State) (kind who : Nat) : (note s kind who).host.closedLogged = s.host.closedLogged := by
  have hport : samePart s (note s kind who) .port := note_frame s kind who .port (by decide)
  rw [samePart] at hport
  rw [hport]

/-! ### A request while the window is closed -/

section
variable {s : State} {r : LibReq}

theorem cutOff_of_closed (hclosed : s.lib.isOpen = false) (ld : Nat) : cutOff s ld = true := by
  simp [cutOff, hclosed]

theorem libRequest_of_not_reaches (h : hostReaches s r.ld = false) : libRequest s r = s := by
  simp [libRequest, h]

theorem libRequest_read_of_closed (h : hostReaches s r.ld = true) (hclosed : s.lib.isOpen = false) (hr : isWrite r = false) :
    libRequest s r = emit s (.cxlData r.ld r.line (List.replicate 64 0xFF) true false) := by
  simp [libRequest, h, cutOff_of_closed hclosed, hr]

theorem libRequest_write_of_closed (h : hostReaches s r.ld = true) (hclosed : s.lib.isOpen = false) (hw : isWrite r = true) :
    libRequest s r = dropWrite s r.ld r.line := by
  simp [libRequest, h, cutOff_of_closed hclosed, hw]

end

/-! ### A dropped write -/

section
variable {s : State} {ld : Nat} (line : Nat)

theorem dropWrite_first (hclosed : s.lib.isOpen = false) (hfirst : s.host.closedLogged.toNat.testBit ld = false) :
    dropWrite s ld line =
      emit (note (setHost s { s.host with closedLogged := s.host.closedLogged ||| ldBit ld }) 6 ld) (.cxlDropped ld line) := by
  simp [dropWrite, hclosed, hfirst]

theorem dropWrite_later (hlogged : s.host.closedLogged.toNat.testBit ld = true) :
    dropWrite s ld line = emit s (.cxlDropped ld line) := by
  simp [dropWrite, hlogged]

theorem dropWrite_lib (hclosed : s.lib.isOpen = false) : (dropWrite s ld line).lib = s.lib := by
  cases hbit : s.host.closedLogged.toNat.testBit ld with
  | false =>
    rw [dropWrite_first line hclosed hbit]
    exact note_lib _ 6 ld
  | true => rw [dropWrite_later line hbit]; rfl

/-- Whether it was the host's first write or not, the host counts as logged after it. -/
theorem dropWrite_logged (hclosed : s.lib.isOpen = false) (hld : ld < 16) :
    (dropWrite s ld line).host.closedLogged.toNat.testBit ld = true := by
  cases hbit : s.host.closedLogged.toNat.testBit ld with
  | false =>
    have hnote := note_closedLogged (setHost s { s.host with closedLogged := s.host.closedLogged ||| ldBit ld }) 6 ld
    rw [dropWrite_first line hclosed hbit]
    exact (congrArg (fun v : BitVec 16 => v.toNat.testBit ld) hnote).trans (testBit_or_ldBit _ hld)
  | true => rw [dropWrite_later line hbit]; exact hbit

end

/-! ### What a request leaves of the library and of the hosts logged -/

theorem libRequest_lib_of_closed (s : State) (r : LibReq) (hclosed : s.lib.isOpen = false) : (libRequest s r).lib = s.lib := by
  cases hreach : hostReaches s r.ld with
  | false => rw [libRequest_of_not_reaches hreach]
  | true =>
    cases hwrite : isWrite r with
    | false => rw [libRequest_read_of_closed hreach hclosed hwrite]; rfl
    | true => rw [libRequest_write_of_closed hreach hclosed hwrite, dropWrite_lib r.line hclosed]

theorem libRequest_logged_of_closed (s : State) (r : LibReq) (hclosed : s.lib.isOpen = false) :
    (libRequest s r).host.closedLogged.toNat.testBit r.ld =
      (s.host.closedLogged.toNat.testBit r.ld || (hostReaches s r.ld && isWrite r)) := by
  cases hreach : hostReaches s r.ld with
  | false => simp [libRequest_of_not_reaches hreach]
  | true =>
    cases hwrite : isWrite r with
    | false => simp [libRequest_read_of_closed hreach hclosed hwrite, emit]
    | true =>
      rw [libRequest_write_of_closed hreach hclosed hwrite, dropWrite_logged r.line hclosed (ld_lt_of_hostReaches hreach)]
      simp

/-! ### The three requests are requests to the library -/

theorem exec_cxlMemRead (ld line : Nat) (s : State) :
    exec (.cxlMemRead ld line) s = .next (libRequest s { ld := ld, line := line, kind := .read }) := rfl

theorem exec_ownershipRequest (ld line : Nat) (s : State) :
    exec (.ownershipRequest ld line) s = .next (libRequest s { ld := ld, line := line, kind := .own }) := rfl

theorem exec_cxlMemWrite (ld line : Nat) (data : List Byte) (s : State) :
    exec (.cxlMemWrite ld line data) s = .next (libRequest s { ld := ld, line := line, kind := .write data }) := rfl

/-- A request of any of the three forms, as one to the library that writes exactly when it is the write. -/
theorem exec_libRequest (s : State) {c : Instr} {ld line : Nat} {data : List Byte}
    (hc : c = .cxlMemRead ld line ∨ c = .ownershipRequest ld line ∨ c = .cxlMemWrite ld line data) :
    ∃ r : LibReq, r.ld = ld ∧ isWrite r = (c == .cxlMemWrite ld line data) ∧ exec c s = .next (libRequest s r) := by
  obtain rfl | rfl | rfl := hc
  · exact ⟨{ ld := ld, line := line, kind := .read }, rfl, rfl, exec_cxlMemRead ld line s⟩
  · exact ⟨{ ld := ld, line := line, kind := .own }, rfl, rfl, exec_ownershipRequest ld line s⟩
  · exact ⟨{ ld := ld, line := line, kind := .write data }, rfl, (beq_self_eq_true _).symm, exec_cxlMemWrite ld line data s⟩

/-- Settles O54: a closed window cuts every host off, so a read is answered with poison and a write is dropped; a NOTE
record changes neither the library nor which hosts have been logged. -/
theorem closedLibraryWindow : Obligations.ClosedLibraryWindow := by
  unfold Obligations.ClosedLibraryWindow
  refine ⟨?poisoned, ?first, ?later, ?frame⟩
  case poisoned =>
    intro s ld line c hreach hclosed hc
    obtain rfl | rfl := hc
    · rw [exec_cxlMemRead, libRequest_read_of_closed hreach hclosed rfl]; rfl
    · rw [exec_ownershipRequest, libRequest_read_of_closed hreach hclosed rfl]; rfl
  case first =>
    intro s ld line data hreach hclosed hfirst
    rw [exec_cxlMemWrite, libRequest_write_of_closed hreach hclosed rfl, dropWrite_first line hclosed hfirst]; rfl
  case later =>
    intro s ld line data hreach hclosed hlogged
    rw [exec_cxlMemWrite, libRequest_write_of_closed hreach hclosed rfl, dropWrite_later line hlogged]; rfl
  case frame =>
    intro s t ld line data c hclosed hc hexec
    obtain ⟨r, rfl, hwrite, hreq⟩ := exec_libRequest s hc
    obtain rfl : libRequest s r = t := Host.Outcome.next.inj (hreq.symm.trans hexec)
    exact ⟨libRequest_lib_of_closed s r hclosed, hwrite ▸ libRequest_logged_of_closed s r hclosed⟩

end Sys2Proof.Machine
end

section
/-! PROOFS. Key slots (R98): which are in use, and what KEY_CLEAR does to one in use and to an empty one. -/

namespace Sys2Proof.Machine

/-! ### The admin descriptor that comes next -/

theorem adminTaken_frame (s : State) : Unchanged [.host] s (adminTaken s) := modFn_frame s 0 _ rfl

/-- An admin descriptor that may start is carried out on the state that has taken it. -/
theorem admin_of_may {s : State} {d : Desc} {op : Nat} (hmay : AdminMay s d op) (body : State → State) :
    admin s d op body = body (adminTaken s) := by
  obtain ⟨hnext, hop, hidle, hdom, hdue, hresetting⟩ := hmay
  obtain ⟨rest, hfetched⟩ := List.head?_eq_some_iff.mp hnext
  have hmain : mainOn s = true := by simp [mainOn, hdom]
  simp [admin, adminTaken, modFn, hfetched, hop, hidle, hmain, hdue, hresetting]

/-! ### Key slots named by a plan -/

theorem planNamesKey_iff (plan : Option Plan) (k : Nat) :
    planNamesKey plan k = true ↔ ∃ p, plan = some p ∧ p.keys.testBit k = true := by
  cases plan <;> simp [planNamesKey]

/-- The use of a tenant key slot is a matter of the two plans alone. -/
theorem keyInUse_tenant_iff (s : State) {k : Nat} (hk : k < 256) :
    keyInUse s k = true ↔ planNamesKey s.core.active k = true ∨ planNamesKey s.core.standby k = true := by
  simp [keyInUse, hk]

theorem keyInUse_operator (s : State) {k : Nat} (hk : 256 ≤ k) : keyInUse s k = false := by
  simp [keyInUse, Nat.not_lt.mpr hk]

theorem keyInUse_adminTaken (s : State) (k : Nat) : keyInUse (adminTaken s) k = keyInUse s k := rfl

/-! ### Clearing a slot -/

theorem clearKey_recs (s : State) (k : Nat) : (clearKey s k).ten.recs = s.ten.recs := rfl

theorem clearKey_frame (s : State) (k : Nat) : Unchanged [.ten] s (clearKey s k) := by
  intro p hp
  cases p
  case ten => exact absurd (List.mem_singleton_self _) hp
  case fn => exact fun _ => rfl
  all_goals simp [samePart]

/-- Clearing an empty slot leaves what every slot holds. -/
theorem keyOf_clearKey_empty {s : State} {k : Nat} (hempty : keyOf s k = none) (j : Nat) : keyOf (clearKey s k) j = keyOf s j := by
  by_cases h : j = k
  · rw [h, keyOf_clearKey_same, hempty]
  · exact keyOf_clearKey_other s k j h

/-! ### KEY_CLEAR -/

theorem exec_keyClear (d : Desc) (s : State) : exec (.keyClear d) s = .next (keyClear s d) := rfl

section
variable {s : State} {d : Desc}

theorem keyClear_in_use (hmay : AdminMay s d 0x21) (huse : keyInUse s (aArg0 d) = true) :
    keyClear s d = adminDone (adminTaken s) d 0x87 0 := by
  rw [keyClear, admin_of_may hmay, keyInUse_adminTaken, if_pos huse]

theorem keyClear_not_in_use (hmay : AdminMay s d 0x21) (hfree : keyInUse s (aArg0 d) = false) :
    keyClear s d = adminDone (clearKey (adminTaken s) (aArg0 d)) d 0 0 := by
  rw [keyClear, admin_of_may hmay, keyInUse_adminTaken, if_neg (Bool.eq_false_iff.mp hfree)]

end

theorem clearKey_adminTaken_frame (s : State) (k : Nat) : Unchanged [.ten, .host] s (clearKey (adminTaken s) k) :=
  unchanged_trans (unchanged_mono (adminTaken_frame s) (by decide)) (unchanged_mono (clearKey_frame _ k) (by decide))

/-- Settles O55: the state that has taken the descriptor has the plans and the keys of the one before, so the guard on use
reads the same there, and clearing a slot that is empty there leaves every slot as it was. -/
theorem keySlotsInUse : Obligations.KeySlotsInUse := by
  unfold Obligations.KeySlotsInUse
  refine ⟨?tenant, ?operator, ?refused, ?empty⟩
  case tenant =>
    intro s k hk
    rw [keyInUse_tenant_iff s hk, planNamesKey_iff, planNamesKey_iff]
  case operator => exact fun s k hk => keyInUse_operator s hk
  case refused =>
    intro s d hmay huse
    rw [exec_keyClear, keyClear_in_use hmay huse]
  case empty =>
    intro s d hmay hfree hempty
    have hkeys : ∀ k, keyOf (clearKey (adminTaken s) (aArg0 d)) k = keyOf s k := keyOf_clearKey_empty (s := adminTaken s) hempty
    refine ⟨clearKey (adminTaken s) (aArg0 d), ?_, clearKey_recs _ _, hkeys, clearKey_adminTaken_frame s _⟩
    rw [exec_keyClear, keyClear_not_in_use hmay hfree]

end Sys2Proof.Machine
end

section
/-! PROOFS. Two admin commands of the library that complete at once: LIB_RETIRE (R283) and LIB_PREFETCH_UNSTAGE (R287). -/

namespace Sys2Proof.Machine

/-! ### The ADMIN_DONE of a descriptor (R82) -/

/-- The parts that an ADMIN_DONE may change: those of an event, and the descriptor in progress. -/
abbrev doneParts : List Part := [.host, .err, .out, .admin]

theorem setAdmin_frame (s : State) (a : Option AdminOp) : Unchanged [.admin] s { s with admin := a } := by
  intro p hp
  cases p
  case admin => exact absurd (List.mem_singleton_self _) hp
  case fn => exact fun _ => rfl
  all_goals simp [samePart]

/-- The state once an ADMIN_DONE of these bits is written: no descriptor is in progress, and the next one may be read. -/
def doneWritten (s : State) (bits : Nat) : State :=
  raiseMsix (startFetch (writeEntry { s with admin := none } 0 2 bits) 0 3) 0 (ringVector 2)

theorem doneWritten_frame (s : State) (bits : Nat) : Unchanged doneParts s (doneWritten s bits) := by
  have hfree : Unchanged doneParts s { s with admin := none } := unchanged_mono (setAdmin_frame s none) (by decide)
  have hwrite (u : State) : Unchanged doneParts u (writeEntry u 0 2 bits) := unchanged_mono (writeEntry_frame u 0 2 bits) (by decide)
  have hfetch (u : State) : Unchanged doneParts u (startFetch u 0 3) := unchanged_mono (startFetch_frame u 0 3) (by decide)
  have hraise (u : State) : Unchanged doneParts u (raiseMsix u 0 (ringVector 2)) := unchanged_mono (raiseMsix_frame u 0 _) (by decide)
  exact unchanged_trans hfree (unchanged_trans (hwrite _) (unchanged_trans (hfetch _) (hraise _)))

/-- The state in which the ADMIN_DONE of a descriptor is due, a loss of events before it told first. -/
def doneDue (s : State) (d : Desc) (status detail : Nat) : State :=
  lostFirst { s with admin := some { d := d, work := .finish status detail none } } 0

theorem doneDue_frame (s : State) (d : Desc) (status detail : Nat) : Unchanged doneParts s (doneDue s d status detail) :=
  unchanged_trans (unchanged_mono (setAdmin_frame s _) (by decide)) (unchanged_mono (lostFirst_frame _ 0) (by decide))

/-- The ADMIN_DONE is written where the event ring has room for it, and stays due elsewhere. -/
theorem adminDone_cases (s : State) (d : Desc) (status detail : Nat) :
    (∃ bits, adminDone s d status detail = doneWritten (doneDue s d status detail) bits) ∨
      adminDone s d status detail = doneDue s d status detail := by
  by_cases hroom : eventRoom (doneDue s d status detail) 0 = true
  · exact .inl ⟨_, if_pos hroom⟩
  · exact .inr (if_neg hroom)

theorem adminDone_frame (s : State) (d : Desc) (status detail : Nat) : Unchanged doneParts s (adminDone s d status detail) := by
  obtain ⟨bits, hdone⟩ | hdone := adminDone_cases s d status detail
  · rw [hdone]; exact unchanged_trans (doneDue_frame s d status detail) (doneWritten_frame _ bits)
  · rw [hdone]; exact doneDue_frame s d status detail

theorem adminDone_lib (s : State) (d : Desc) (status detail : Nat) : (adminDone s d status detail).lib = s.lib :=
  adminDone_frame s d status detail .lib (by decide)

theorem adminDone_mem (s : State) (d : Desc) (status detail : Nat) : (adminDone s d status detail).mem = s.mem :=
  adminDone_frame s d status detail .mem (by decide)

/-- Taking a descriptor, an effect, and its ADMIN_DONE together change what the effect changes and what an ADMIN_DONE may. -/
theorem adminDone_of_taken_frame {l : List Part} {s u : State} (heffect : Unchanged l (adminTaken s) u) (d : Desc) (status detail : Nat) :
    Unchanged (l ++ doneParts) s (adminDone u d status detail) := by
  have htaken : Unchanged (l ++ doneParts) s (adminTaken s) := unchanged_mono (adminTaken_frame s) (by simp)
  have hmid : Unchanged (l ++ doneParts) (adminTaken s) u := unchanged_mono heffect (fun p => List.mem_append_left doneParts)
  have hdone : Unchanged (l ++ doneParts) u (adminDone u d status detail) :=
    unchanged_mono (adminDone_frame u d status detail) (fun p => List.mem_append_right l)
  exact unchanged_trans htaken (unchanged_trans hmid hdone)

@[simp] theorem adminTaken_lib (s : State) : (adminTaken s).lib = s.lib := rfl
@[simp] theorem adminTaken_mem (s : State) : (adminTaken s).mem = s.mem := rfl

theorem adminAct_of_may {s : State} {d : Desc} {op : Nat} {is : Bool} (hmay : AdminMay s d op) (his : is = true) (body : State → State) :
    adminAct s d op is body = body (adminTaken s) := by
  rw [adminAct, if_pos his, admin_of_may hmay]

/-- A change of the library alone. -/
theorem setLib_frame (s : State) (l : Lib) : Unchanged [.lib] s { s with lib := l } := by
  intro p hp
  cases p
  case lib => exact absurd (List.mem_singleton_self _) hp
  case fn => exact fun _ => rfl
  all_goals simp [samePart]

/-! ### The catalogue without one range -/

/-- The state in which no catalogue entry has the range of n pages from first. -/
def entryDropped (s : State) (first n : Nat) : State :=
  { s with lib := { s.lib with catalog := s.lib.catalog.filter (fun e => !(e.first == first && e.pages == n)) } }

theorem mem_entryDropped_catalog {s : State} {first n : Nat} {e : CatalogEntry} :
    e ∈ (entryDropped s first n).lib.catalog ↔ e ∈ s.lib.catalog ∧ ¬ (e.first = first ∧ e.pages = n) := by
  simp only [entryDropped, List.mem_filter, Bool.not_eq_true', ← Bool.not_eq_true, Bool.and_eq_true, beq_iff_eq]

theorem entryDropped_frame (s : State) (first n : Nat) : Unchanged [.lib] s (entryDropped s first n) := setLib_frame s _

theorem published_eq_false_iff (s : State) (p : Nat) :
    published s p = false ↔ ∀ e ∈ s.lib.catalog, ¬ (e.first ≤ p ∧ p < e.first + e.pages) := by
  simp [published]

theorem published_congr {s t : State} (h : t.lib = s.lib) (p : Nat) : published t p = published s p := by
  rw [published, published, h]

theorem not_rangesMeet_iff (a n b m : Nat) : rangesMeet a n b m = false ↔ b + m ≤ a ∨ a + n ≤ b := by
  rw [rangesMeet, Bool.and_eq_false_iff]
  simp

/-- Where no other entry meets the range, none of its pages is published once its entry is gone. -/
theorem published_entryDropped {s : State} {first n : Nat}
    (halone : ∀ e ∈ s.lib.catalog, e.first = first ∧ e.pages = n ∨ rangesMeet first n e.first e.pages = false)
    {p : Nat} (hlo : first ≤ p) (hhi : p < first + n) : published (entryDropped s first n) p = false := by
  rw [published_eq_false_iff]
  rintro e he ⟨hle, hlt⟩
  obtain ⟨hin, hother⟩ := mem_entryDropped_catalog.mp he
  have hapart := (not_rangesMeet_iff _ _ _ _).mp ((halone e hin).resolve_left hother)
  omega

/-! ### LIB_RETIRE (R283) -/

theorem exec_libRetire (d : Desc) (s : State) : exec (.libRetire d) s = .next (retireDesc s d) := rfl

theorem coldReset_catalog (s : State) (lost : Bool) : Runs (.coldReset lost) s fun u => u.lib.catalog = s.lib.catalog :=
  ⟨coldReset s lost, rfl, rfl⟩

section
variable {s : State} {d : Desc}

theorem retireDesc_closed (hmay : AdminMay s d 0x41) (hclosed : s.lib.isOpen = false) :
    retireDesc s d = adminDone (adminTaken s) d 0xC0 0 := by
  rw [retireDesc, admin_of_may hmay]
  simp [hclosed]

theorem retireDesc_no_entry (hmay : AdminMay s d 0x41) (hopen : s.lib.isOpen = true)
    (hnone : ¬ ∃ e ∈ s.lib.catalog, e.first = aArg0 d ∧ e.pages = aArg1 d) :
    retireDesc s d = adminDone (adminTaken s) d 0xC6 0 := by
  have hany : s.lib.catalog.any (fun e => e.first == aArg0 d && e.pages == aArg1 d) = false := by simpa using hnone
  rw [retireDesc, admin_of_may hmay]
  simp [hopen, hany]

theorem retireDesc_entry (hmay : AdminMay s d 0x41) (hopen : s.lib.isOpen = true)
    (hentry : ∃ e ∈ s.lib.catalog, e.first = aArg0 d ∧ e.pages = aArg1 d) :
    retireDesc s d = if s.lib.recs.any (fun r => r.first == aArg0 d) then adminDone (adminTaken s) d 0xC7 0
      else adminDone (entryDropped (adminTaken s) (aArg0 d) (aArg1 d)) d 0 0 := by
  have hany : s.lib.catalog.any (fun e => e.first == aArg0 d && e.pages == aArg1 d) = true := by simpa using hentry
  rw [retireDesc, admin_of_may hmay]
  simp [hopen, hany, entryDropped]

end

/-- Settles O47: the guards read the library of the state that took the descriptor, which is the one before; past them the
catalogue loses the range's entry, and the ADMIN_DONE leaves the library as it then is. -/
theorem retireAnImage : Obligations.RetireAnImage := by
  unfold Obligations.RetireAnImage
  refine ⟨?closed, ?absent, ?prefetched, ?retired⟩
  case closed =>
    intro s d hmay hclosed
    rw [exec_libRetire, retireDesc_closed hmay hclosed]
  case absent =>
    intro s d hmay hopen hnone
    rw [exec_libRetire, retireDesc_no_entry hmay hopen hnone]
  case prefetched =>
    intro s d hmay hopen hentry hrec
    rw [exec_libRetire, retireDesc_entry hmay hopen hentry, if_pos (by simpa using hrec)]
  case retired =>
    intro s d hmay hopen hentry hrec
    let u := entryDropped (adminTaken s) (aArg0 d) (aArg1 d)
    have hlib : (adminDone u d 0 0).lib = u.lib := adminDone_lib u d 0 0
    refine ⟨adminDone u d 0 0, ?_, hlib, ?_, coldReset_catalog _, adminDone_of_taken_frame (entryDropped_frame _ _ _) d 0 0⟩
    · rw [exec_libRetire, retireDesc_entry hmay hopen hentry, if_neg (by simpa using hrec)]
    · intro halone p hlo hhi
      rw [published_congr hlib]
      exact published_entryDropped (s := adminTaken s) halone hlo hhi

/-! ### HBM ranges zeroed -/

theorem hbmZero_frame (s : State) (a n : Nat) : Unchanged [.mem] s (hbmZero s a n) := by
  intro p hp
  cases p
  case mem => exact absurd (List.mem_singleton_self _) hp
  case fn => exact fun _ => rfl
  all_goals simp [samePart]

theorem hbmByte_hbmZero (s : State) (a n b : Nat) :
    hbmByte (hbmZero s a n) b = if a ≤ b ∧ b < a + n then 0 else hbmByte s b := by
  split
  next hin => exact memRead_memClear_in 0 _ a n b hin.1 hin.2
  next hout => exact memRead_memClear_out 0 _ a n b (by omega)

/-- A byte after zeroing one range after the other: 0 in any of them, and what it was elsewhere. -/
theorem hbmByte_foldl_hbmZero (xs : List (Nat × Nat)) (s : State) (b : Nat) :
    hbmByte (xs.foldl (fun s x => hbmZero s x.1 x.2) s) b =
      if ∃ x ∈ xs, x.1 ≤ b ∧ b < x.1 + x.2 then 0 else hbmByte s b := by
  induction xs generalizing s with
  | nil => simp
  | cons x xs ih =>
    rw [List.foldl_cons, ih, hbmByte_hbmZero]
    by_cases hx : x.1 ≤ b ∧ b < x.1 + x.2
    · simp [hx]
    · simp only [List.mem_cons, exists_eq_or_imp, hx, false_or, if_false]

theorem zeroRecord_frame (s : State) (r : PrefetchRec) : Unchanged [.mem] s (zeroRecord s r) :=
  unchanged_foldl (f := fun s x => hbmZero s x.1 x.2) (fun s x => hbmZero_frame s x.1 x.2) (recRanges r) s

theorem zeroRecord_lib (s : State) (r : PrefetchRec) : (zeroRecord s r).lib = s.lib := zeroRecord_frame s r .lib (by decide)

theorem zeroRecord_pool (s : State) (r : PrefetchRec) : (zeroRecord s r).mem.pool = s.mem.pool := by
  rw [zeroRecord]
  induction recRanges r generalizing s with
  | nil => rfl
  | cons x xs ih => exact ih (hbmZero s x.1 x.2)

theorem hbmByte_zeroRecord_in (s : State) {r : PrefetchRec} {x : Nat × Nat} (hx : x ∈ recRanges r) {i : Nat} (hi : i < x.2) :
    hbmByte (zeroRecord s r) (x.1 + i) = 0 := by
  rw [zeroRecord, hbmByte_foldl_hbmZero, if_pos ⟨x, hx, by omega, by omega⟩]

theorem hbmByte_zeroRecord_out (s : State) {r : PrefetchRec} {b : Nat} (hout : ∀ x ∈ recRanges r, b < x.1 ∨ x.1 + x.2 ≤ b) :
    hbmByte (zeroRecord s r) b = hbmByte s b := by
  rw [zeroRecord, hbmByte_foldl_hbmZero, if_neg]
  rintro ⟨x, hx, hlo, hhi⟩
  have := hout x hx
  omega

/-! ### Records -/

theorem recordOf_id {s : State} {id : Nat} {r : PrefetchRec} (h : recordOf s id = some r) : r.id = id := by
  simpa using List.find?_some h

theorem recordOf_freeRec (s : State) (id : Nat) : recordOf (freeRec s id) id = none := by
  simp [recordOf, freeRec]

theorem freeRec_frame (s : State) (id : Nat) : Unchanged [.lib] s (freeRec s id) := setLib_frame s _

theorem recordOf_congr {s t : State} (h : t.lib = s.lib) (id : Nat) : recordOf t id = recordOf s id := by
  rw [recordOf, recordOf, h]

/-- A model entry of a plan has its INIT_ADDR in a record's INIT range. -/
def planNamesInit (plan : Option Plan) (r : PrefetchRec) : Bool :=
  match plan with
  | some p => p.models.any (fun m => decide (r.init ≤ m.initAddr) && decide (m.initAddr < r.init + r.initLen))
  | none => false

theorem planNamesInit_iff (plan : Option Plan) (r : PrefetchRec) :
    planNamesInit plan r = true ↔ ∃ p, plan = some p ∧ ∃ m ∈ p.models, r.init ≤ m.initAddr ∧ m.initAddr < r.init + r.initLen := by
  cases plan with
  | none => exact ⟨fun h => absurd h Bool.false_ne_true, fun ⟨_, hp, _⟩ => nomatch hp⟩
  | some q =>
    simp only [planNamesInit, List.any_eq_true, Bool.and_eq_true, decide_eq_true_eq]
    exact ⟨fun h => ⟨q, rfl, h⟩, fun ⟨_, hp, h⟩ => Option.some.inj hp ▸ h⟩

theorem initInUse_eq (s : State) (r : PrefetchRec) :
    initInUse s r = (planNamesInit s.core.active r || s.core.armed && planNamesInit s.core.standby r) := rfl

/-- The guard on an INIT range in use says what the statements mean by it. -/
theorem initInUse_iff (s : State) (r : PrefetchRec) : initInUse s r = true ↔ InitNamed s r := by
  rw [initInUse_eq, Bool.or_eq_true, Bool.and_eq_true, planNamesInit_iff, planNamesInit_iff]
  constructor
  · rintro (⟨p, hactive, hm⟩ | ⟨harmed, p, hstandby, hm⟩)
    · exact ⟨p, .inl hactive, hm⟩
    · exact ⟨p, .inr ⟨harmed, hstandby⟩, hm⟩
  · rintro ⟨p, hactive | ⟨harmed, hstandby⟩, hm⟩
    · exact .inl ⟨p, hactive, hm⟩
    · exact .inr ⟨harmed, p, hstandby, hm⟩

/-! ### LIB_PREFETCH_UNSTAGE (R287) -/

theorem exec_libPrefetchUnstage (d : Desc) (s : State) : exec (.libPrefetchUnstage d) s = .next (unstageDesc s d) := rfl

/-- The state in which the ranges of a record are zeroed and the record is freed. -/
def recordUnstaged (s : State) (r : PrefetchRec) : State := freeRec (zeroRecord s r) r.id

theorem recordUnstaged_frame (s : State) (r : PrefetchRec) : Unchanged [.lib, .mem] s (recordUnstaged s r) :=
  unchanged_trans (unchanged_mono (zeroRecord_frame s r) (by decide)) (unchanged_mono (freeRec_frame _ r.id) (by decide))

theorem recordUnstaged_lib (s : State) (r : PrefetchRec) :
    (recordUnstaged s r).lib = { s.lib with recs := s.lib.recs.filter (fun x => x.id != r.id) } := by
  rw [recordUnstaged, freeRec, zeroRecord_lib]

theorem recordUnstaged_mem (s : State) (r : PrefetchRec) : (recordUnstaged s r).mem = (zeroRecord s r).mem := rfl

theorem hbmByte_congr {s t : State} (h : t.mem = s.mem) (a : Nat) : hbmByte t a = hbmByte s a := by
  rw [hbmByte, hbmByte, h]

section
variable {s : State} {d : Desc}

theorem unstageDesc_no_record (hmay : AdminMay s d 0x42) (hact : bitsOf (aArg0 d) 31 30 = 2) (hnone : recordOf s (aArg1 d) = none) :
    unstageDesc s d = adminDone (adminTaken s) d 0xCB 0 := by
  have htaken : recordOf (adminTaken s) (aArg1 d) = none := hnone
  rw [unstageDesc, adminAct_of_may hmay (by simp [hact]), htaken]

theorem unstageDesc_record (hmay : AdminMay s d 0x42) (hact : bitsOf (aArg0 d) 31 30 = 2) {r : PrefetchRec}
    (hrec : recordOf s (aArg1 d) = some r) :
    unstageDesc s d = if r.running || initInUse s r then adminDone (adminTaken s) d 0xC7 0
      else adminDone (recordUnstaged (adminTaken s) r) d 0 0 := by
  have htaken : recordOf (adminTaken s) (aArg1 d) = some r := hrec
  rw [unstageDesc, adminAct_of_may hmay (by simp [hact]), htaken]
  rfl

end

/-- Settles O49: past the guard, which is InitNamed or a running record, the record's ranges are zeroed one after the other
and the record leaves the list, and the ADMIN_DONE touches neither the memory nor the library. -/
theorem unstageOfPrefetchRecords : Obligations.UnstageOfPrefetchRecords := by
  unfold Obligations.UnstageOfPrefetchRecords
  refine ⟨?ended, ?used, ?absent⟩
  case ended =>
    intro s d r hmay hact hrec hended hfree
    let u := recordUnstaged (adminTaken s) r
    have hlib : (adminDone u d 0 0).lib = u.lib := adminDone_lib u d 0 0
    have hmem : (adminDone u d 0 0).mem = (zeroRecord (adminTaken s) r).mem := adminDone_mem u d 0 0
    refine ⟨adminDone u d 0 0, ?_, ?_, ?_, ?_, hlib.trans (recordUnstaged_lib _ r), ?_,
      adminDone_of_taken_frame (recordUnstaged_frame _ r) d 0 0⟩
    · rw [exec_libPrefetchUnstage, unstageDesc_record hmay hact hrec, if_neg]
      simp [hended, initInUse_iff, hfree]
    · intro x hx i hi
      rw [hbmByte_congr hmem, hbmByte_zeroRecord_in _ hx hi]
    · intro a hout
      rw [hbmByte_congr hmem, hbmByte_zeroRecord_out _ hout]
      rfl
    · rw [recordOf_congr hlib, ← recordOf_id hrec]
      exact recordOf_freeRec _ r.id
    · rw [hmem, zeroRecord_pool, adminTaken_mem]
  case used =>
    intro s d r hmay hact hrec huse
    rw [exec_libPrefetchUnstage, unstageDesc_record hmay hact hrec, if_pos]
    simpa [initInUse_iff] using huse
  case absent =>
    intro s d hmay hact hnone
    rw [exec_libPrefetchUnstage, unstageDesc_no_record hmay hact hnone]

end Sys2Proof.Machine
end
